-- ==== Sys2Proof/Word.lean ====
section
/-! DEFINITION. The plain types of the timer block: the 16-bit register word (R5, R42), the 24-bit
stimulus word of format `STIM-1` (R60) and the channel index 0..6 (R5: at most seven channels). -/

namespace Sys2Proof

/-- A register value: 16 bits, the only width of the block (R5, R42). -/
abbrev Word := BitVec 16

/-- A stimulus word of format `STIM-1`: 24 bits (R60). -/
abbrev StimWord := BitVec 24

/-- A channel index, 0..6: `N_CH_MAX` is 7 (R5). -/
abbrev Chan := Fin 7

end Sys2Proof
end

