-- ==== Sys2Proof/Syntax.lean ====
section
/-! DEFINITION. Syntax: the enumerations of R65 to R68, the registers of the window (R41), the stimuli
(R61, R62) and `Instr`, one constructor per row of spec/opcode_table.json. -/

namespace Sys2Proof

/-- The four clock inputs, in the order of R65. -/
inductive ClockSource where
  | external | auxiliary | subMain | internalLowPower
deriving DecidableEq, Repr

/-- The primary divider settings of R66: divide by 1, 2, 4, 8. -/
inductive PrimaryDivider where
  | div1 | div2 | div4 | div8
deriving DecidableEq, Repr

/-- The run modes of R66. The fourth code of the field has no meaning, is refused on write (R83) and
cannot stand in a state (R28), so the type has three values. -/
inductive RunMode where
  | stopped | up | continuous
deriving DecidableEq, Repr

/-- The eight output modes, in the order of R67. -/
inductive OutputMode where
  | out | set | toggleReset | setReset | toggle | reset | toggleSet | resetSet
deriving DecidableEq, Repr

/-- The capture edge selections of R68. -/
inductive CaptureEdge where
  | none | rising | falling | both
deriving DecidableEq, Repr

/-- The capture input selections of R68. -/
inductive CaptureInput where
  | lineA | lineB | low | high
deriving DecidableEq, Repr

/-- The two external input lines of a channel (R20, R62). -/
inductive Line where
  | a | b
deriving DecidableEq, Repr

/-- The registers of the window, R41. -/
inductive Reg where
  | ctl
  | cctl (n : Chan)
  | r
  | ccr (n : Chan)
  | ex0
  | iv
deriving DecidableEq, Repr

/-- A stimulus (R7): a bus read, a bus write, one of the five events of R62, or a word of the reserved
kind (R60), whose 22 free bits are kept because its refusal records the word (R215). -/
inductive Stim where
  | rd (reg : Reg)
  | wr (reg : Reg) (data : Word)
  | reset
  | src (source : ClockSource)
  | pin (n : BitVec 3) (line : Line) (level : Bool)
  | sync (n : BitVec 3)
  | ack0
  | reserved (payload : BitVec 22)
deriving DecidableEq, Repr

/-- One constructor per row of spec/opcode_table.json. The bus rows and the event rows are the stimuli;
the last 22 are the driver operations of R70, with the operands R114 to R190 give them. The operands of
`PIN` and `SYNC` have the three bits of their encoding; that a channel is wired is checked where the
stimulus is carried out (R62, R80). -/
inductive Instr where
  /-- `RD CTL`, R81. -/
  | rdCtl
  /-- `WR CTL, data`, R82, R83. -/
  | wrCtl (data : Word)
  /-- `RD CCTL0`, R84. -/
  | rdCctl0
  /-- `WR CCTL0, data`, R85. -/
  | wrCctl0 (data : Word)
  /-- `RD CCTL1`, R84. -/
  | rdCctl1
  /-- `WR CCTL1, data`, R85. -/
  | wrCctl1 (data : Word)
  /-- `RD CCTL2`, R84. -/
  | rdCctl2
  /-- `WR CCTL2, data`, R85. -/
  | wrCctl2 (data : Word)
  /-- `RD CCTL3`, R84. -/
  | rdCctl3
  /-- `WR CCTL3, data`, R85. -/
  | wrCctl3 (data : Word)
  /-- `RD CCTL4`, R84. -/
  | rdCctl4
  /-- `WR CCTL4, data`, R85. -/
  | wrCctl4 (data : Word)
  /-- `RD CCTL5`, R84. -/
  | rdCctl5
  /-- `WR CCTL5, data`, R85. -/
  | wrCctl5 (data : Word)
  /-- `RD CCTL6`, R84. -/
  | rdCctl6
  /-- `WR CCTL6, data`, R85. -/
  | wrCctl6 (data : Word)
  /-- `RD R`, R88. -/
  | rdR
  /-- `WR R, data`, R89. -/
  | wrR (data : Word)
  /-- `RD CCR0`, R91. -/
  | rdCcr0
  /-- `WR CCR0, data`, R90. -/
  | wrCcr0 (data : Word)
  /-- `RD CCR1`, R91. -/
  | rdCcr1
  /-- `WR CCR1, data`, R90. -/
  | wrCcr1 (data : Word)
  /-- `RD CCR2`, R91. -/
  | rdCcr2
  /-- `WR CCR2, data`, R90. -/
  | wrCcr2 (data : Word)
  /-- `RD CCR3`, R91. -/
  | rdCcr3
  /-- `WR CCR3, data`, R90. -/
  | wrCcr3 (data : Word)
  /-- `RD CCR4`, R91. -/
  | rdCcr4
  /-- `WR CCR4, data`, R90. -/
  | wrCcr4 (data : Word)
  /-- `RD CCR5`, R91. -/
  | rdCcr5
  /-- `WR CCR5, data`, R90. -/
  | wrCcr5 (data : Word)
  /-- `RD CCR6`, R91. -/
  | rdCcr6
  /-- `WR CCR6, data`, R90. -/
  | wrCcr6 (data : Word)
  /-- `RD EX0`, R86. -/
  | rdEx0
  /-- `WR EX0, data`, R87. -/
  | wrEx0 (data : Word)
  /-- `RD IV`, R92. -/
  | rdIv
  /-- `WR IV, data`, R93. -/
  | wrIv (data : Word)
  /-- `RESET`, R230. -/
  | reset
  /-- `SRC s`, R111. -/
  | src (source : ClockSource)
  /-- `PIN n.L=v`, R160. -/
  | pin (n : BitVec 3) (line : Line) (level : Bool)
  /-- `SYNC n`, R164. -/
  | sync (n : BitVec 3)
  /-- `ACK0`, R207. -/
  | ack0
  /-- A word of the reserved kind, R60, R72. -/
  | reservedKind (payload : BitVec 22)
  /-- `config_clock(source, divider)`, R114. -/
  | configClock (source : ClockSource) (divider : PrimaryDivider)
  /-- `set_expansion_divider(e)`, R115: `e` is the divisor, 1..8. -/
  | setExpansionDivider (e : Nat)
  /-- `reset()`, R132: the driver's clear pulse, not the `RESET` event (R232). -/
  | driverReset
  /-- `upmode()`, R133. -/
  | upmode
  /-- `continuous()`, R134. -/
  | continuous
  /-- `stop()`, R135. -/
  | stop
  /-- `is_stopped()`, R136. -/
  | isStopped
  /-- `overflow_flag_read()`, R137. -/
  | overflowFlagRead
  /-- `overflow_flag_clear()`, R138. -/
  | overflowFlagClear
  /-- `overflow_interrupt_enable()`, R139. -/
  | overflowInterruptEnable
  /-- `overflow_interrupt_disable()`, R140. -/
  | overflowInterruptDisable
  /-- `chN.config_output_mode(mode)`, R171. -/
  | chConfigOutputMode (n : Chan) (mode : OutputMode)
  /-- `chN.config_capture_mode(edge, input)`, R172. -/
  | chConfigCaptureMode (n : Chan) (edge : CaptureEdge) (input : CaptureInput)
  /-- `chN.set_value(x)`, R173. -/
  | chSetValue (n : Chan) (x : Word)
  /-- `chN.get_value()`, R174. -/
  | chGetValue (n : Chan)
  /-- `chN.flag_read()`, R175. -/
  | chFlagRead (n : Chan)
  /-- `chN.flag_clear()`, R176. -/
  | chFlagClear (n : Chan)
  /-- `chN.enable()`, R177. -/
  | chEnable (n : Chan)
  /-- `chN.disable()`, R178. -/
  | chDisable (n : Chan)
  /-- `chN.capture_overflow_and_flag_read()`, R179. -/
  | chCaptureOverflowAndFlagRead (n : Chan)
  /-- `chN.clear_overflow_and_flag()`, R180. -/
  | chClearOverflowAndFlag (n : Chan)
  /-- `read_vector()`, R190. -/
  | readVector
deriving DecidableEq, Repr

end Sys2Proof
end

