-- ==== Sys2Proof/Decode.lean ====
section
/-! DEFINITION. Decoding and encoding of stimulus words (R60 to R62), the numeric codes (R65 to R68), the register
map (R41), the written words of the driver operations (R70) and their expansion into stimuli. -/

namespace Sys2Proof

/-! ## Numeric codes, R65 to R68 -/

/-- The code of a clock source, R65. -/
def ClockSource.code : ClockSource → BitVec 2
  | .external => 0
  | .auxiliary => 1
  | .subMain => 2
  | .internalLowPower => 3

/-- The clock source of a code, R65: all four are legal. -/
def ClockSource.ofCode (c : BitVec 2) : ClockSource :=
  match c.toNat with
  | 0 => .external
  | 1 => .auxiliary
  | 2 => .subMain
  | _ => .internalLowPower

/-- The code of a primary divider setting, R66. -/
def PrimaryDivider.code : PrimaryDivider → BitVec 2
  | .div1 => 0
  | .div2 => 1
  | .div4 => 2
  | .div8 => 3

/-- The primary divider setting of a code, R66: all four are legal. -/
def PrimaryDivider.ofCode (c : BitVec 2) : PrimaryDivider :=
  match c.toNat with
  | 0 => .div1
  | 1 => .div2
  | 2 => .div4
  | _ => .div8

/-- The code of a run mode, R66. -/
def RunMode.code : RunMode → BitVec 2
  | .stopped => 0
  | .up => 1
  | .continuous => 2

/-- The run mode of a code, R66; code 3 has none (R83). -/
def RunMode.ofCode (c : BitVec 2) : Option RunMode :=
  match c.toNat with
  | 0 => some .stopped
  | 1 => some .up
  | 2 => some .continuous
  | _ => none

/-- The code of an output mode, R67. -/
def OutputMode.code : OutputMode → BitVec 3
  | .out => 0
  | .set => 1
  | .toggleReset => 2
  | .setReset => 3
  | .toggle => 4
  | .reset => 5
  | .toggleSet => 6
  | .resetSet => 7

/-- The output mode of a code, R67: all eight are legal. -/
def OutputMode.ofCode (c : BitVec 3) : OutputMode :=
  match c.toNat with
  | 0 => .out
  | 1 => .set
  | 2 => .toggleReset
  | 3 => .setReset
  | 4 => .toggle
  | 5 => .reset
  | 6 => .toggleSet
  | _ => .resetSet

/-- The code of a capture edge selection, R68. -/
def CaptureEdge.code : CaptureEdge → BitVec 2
  | .none => 0
  | .rising => 1
  | .falling => 2
  | .both => 3

/-- The capture edge selection of a code, R68: all four are legal. -/
def CaptureEdge.ofCode (c : BitVec 2) : CaptureEdge :=
  match c.toNat with
  | 0 => .none
  | 1 => .rising
  | 2 => .falling
  | _ => .both

/-- The code of a capture input selection, R68. -/
def CaptureInput.code : CaptureInput → BitVec 2
  | .lineA => 0
  | .lineB => 1
  | .low => 2
  | .high => 3

/-- The capture input selection of a code, R68: all four are legal. -/
def CaptureInput.ofCode (c : BitVec 2) : CaptureInput :=
  match c.toNat with
  | 0 => .lineA
  | 1 => .lineB
  | 2 => .low
  | _ => .high

/-- The bit that names an input line, R62: 0 line A, 1 line B. -/
def Line.code : Line → BitVec 1
  | .a => 0
  | .b => 1

/-- The input line a bit names, R62. -/
def Line.ofBit : Bool → Line
  | false => .a
  | true => .b

/-! ## Register map, R41 -/

/-- The byte offset of a register, R41. -/
def Reg.offset : Reg → BitVec 6
  | .ctl => 0x00
  | .cctl n => BitVec.ofNat 6 (0x02 + 2 * n.val)
  | .r => 0x10
  | .ccr n => BitVec.ofNat 6 (0x12 + 2 * n.val)
  | .ex0 => 0x20
  | .iv => 0x2E

/-- The register at a byte offset, R41; none where the map has none. -/
def regAt (off : BitVec 6) : Option Reg :=
  match off.toNat with
  | 0x00 => some .ctl
  | 0x02 => some (.cctl 0)
  | 0x04 => some (.cctl 1)
  | 0x06 => some (.cctl 2)
  | 0x08 => some (.cctl 3)
  | 0x0A => some (.cctl 4)
  | 0x0C => some (.cctl 5)
  | 0x0E => some (.cctl 6)
  | 0x10 => some .r
  | 0x12 => some (.ccr 0)
  | 0x14 => some (.ccr 1)
  | 0x16 => some (.ccr 2)
  | 0x18 => some (.ccr 3)
  | 0x1A => some (.ccr 4)
  | 0x1C => some (.ccr 5)
  | 0x1E => some (.ccr 6)
  | 0x20 => some .ex0
  | 0x2E => some .iv
  | _ => none

/-! ## Decoding, R60 to R62 -/

/-- Why a word is no stimulus: the decoder's refusals, each with what R215 says is recorded. -/
inductive Reject where
  /-- `RF5`: a `RD` word whose `DATA` is not zero (R61); records the word. -/
  | readDataNonzero (w : StimWord)
  /-- `RF2`: a bus word with an odd `OFF` (R43, R61); records `OFF`. -/
  | oddOffset (off : BitVec 6)
  /-- `RF3`: a bus word with an even `OFF` outside the map (R61, R94); records `OFF`. -/
  | unmapped (off : BitVec 6)
  /-- `RF6`: an event word with an unlisted `EVCODE` or a reserved `ARG` bit set (R62); records the word. -/
  | badEvent (w : StimWord)
deriving DecidableEq, Repr

/-- The register a bus word addresses, with the checks in the order of R80: odd offset, then unmapped. -/
def busReg (off : BitVec 6) : Except Reject Reg :=
  if off.getLsbD 0 then .error (.oddOffset off)
  else
    match regAt off with
    | some reg => .ok reg
    | none => .error (.unmapped off)

/-- The stimulus of an event word, R62, from its `EVCODE` and `ARG`; a set bit of `ARG` that the table does not
list refuses the word. -/
def decodeEvent (w : StimWord) (evcode : BitVec 6) (arg : Word) : Except Reject Stim :=
  match evcode.toNat with
  | 0x00 => if arg = 0 then .ok .reset else .error (.badEvent w)
  | 0x01 =>
    if arg &&& 0xFFFC = 0 then .ok (.src (ClockSource.ofCode (arg.extractLsb' 0 2))) else .error (.badEvent w)
  | 0x02 =>
    if arg &&& 0xFF8C = 0 then
      .ok (.pin (arg.extractLsb' 4 3) (Line.ofBit (arg.getLsbD 1)) (arg.getLsbD 0))
    else .error (.badEvent w)
  | 0x03 => if arg &&& 0xFFF8 = 0 then .ok (.sync (arg.extractLsb' 0 3)) else .error (.badEvent w)
  | 0x04 => if arg = 0 then .ok .ack0 else .error (.badEvent w)
  | _ => .error (.badEvent w)

/-- The stimulus of a word, R60 to R62: bits 23:22 the kind, 21:16 `OFF` or `EVCODE`, 15:0 `DATA` or `ARG`.
Checks that need the configuration (`RF4`, the channel part of `RF6`) and the written mode (`RF7`) are made where
the stimulus is carried out. -/
def decodeStim (w : StimWord) : Except Reject Stim :=
  match (w.extractLsb' 22 2).toNat with
  | 0 =>
    if w.extractLsb' 0 16 ≠ 0 then .error (.readDataNonzero w)
    else (busReg (w.extractLsb' 16 6)).map .rd
  | 1 => (busReg (w.extractLsb' 16 6)).map (.wr · (w.extractLsb' 0 16))
  | 2 => decodeEvent w (w.extractLsb' 16 6) (w.extractLsb' 0 16)
  | _ => .ok (.reserved (w.extractLsb' 0 22))

/-- The instruction a stimulus is: the row of the opcode table. -/
def Stim.toInstr : Stim → Instr
  | .rd .ctl => .rdCtl
  | .rd (.cctl 0) => .rdCctl0
  | .rd (.cctl 1) => .rdCctl1
  | .rd (.cctl 2) => .rdCctl2
  | .rd (.cctl 3) => .rdCctl3
  | .rd (.cctl 4) => .rdCctl4
  | .rd (.cctl 5) => .rdCctl5
  | .rd (.cctl 6) => .rdCctl6
  | .rd .r => .rdR
  | .rd (.ccr 0) => .rdCcr0
  | .rd (.ccr 1) => .rdCcr1
  | .rd (.ccr 2) => .rdCcr2
  | .rd (.ccr 3) => .rdCcr3
  | .rd (.ccr 4) => .rdCcr4
  | .rd (.ccr 5) => .rdCcr5
  | .rd (.ccr 6) => .rdCcr6
  | .rd .ex0 => .rdEx0
  | .rd .iv => .rdIv
  | .wr .ctl d => .wrCtl d
  | .wr (.cctl 0) d => .wrCctl0 d
  | .wr (.cctl 1) d => .wrCctl1 d
  | .wr (.cctl 2) d => .wrCctl2 d
  | .wr (.cctl 3) d => .wrCctl3 d
  | .wr (.cctl 4) d => .wrCctl4 d
  | .wr (.cctl 5) d => .wrCctl5 d
  | .wr (.cctl 6) d => .wrCctl6 d
  | .wr .r d => .wrR d
  | .wr (.ccr 0) d => .wrCcr0 d
  | .wr (.ccr 1) d => .wrCcr1 d
  | .wr (.ccr 2) d => .wrCcr2 d
  | .wr (.ccr 3) d => .wrCcr3 d
  | .wr (.ccr 4) d => .wrCcr4 d
  | .wr (.ccr 5) d => .wrCcr5 d
  | .wr (.ccr 6) d => .wrCcr6 d
  | .wr .ex0 d => .wrEx0 d
  | .wr .iv d => .wrIv d
  | .reset => .reset
  | .src source => .src source
  | .pin n line level => .pin n line level
  | .sync n => .sync n
  | .ack0 => .ack0
  | .reserved payload => .reservedKind payload

/-- The instruction of a stimulus word. The rows of the driver operations are no encodings ("a decoder ignores this
row and decodes the words of the expansion"), so no word decodes to one. -/
def decode (w : StimWord) : Except Reject Instr :=
  (decodeStim w).map Stim.toInstr

/-! ## Encoding -/

/-- Field insertion, R74: a field's value zero-extended and shifted to its position. -/
def fieldAt {w : Nat} (v : BitVec w) (lo : Nat) : Word := v.setWidth 16 <<< lo

/-- A word of kind `kind` with `OFF` or `EVCODE` and `DATA` or `ARG`, R60. -/
def stimWord (kind : BitVec 2) (field : BitVec 6) (data : Word) : StimWord :=
  (kind.setWidth 24 <<< 22) ||| (field.setWidth 24 <<< 16) ||| data.setWidth 24

/-- The word of a stimulus, R60 to R62. -/
def Stim.encode : Stim → StimWord
  | .rd reg => stimWord 0 reg.offset 0
  | .wr reg data => stimWord 1 reg.offset data
  | .reset => stimWord 2 0 0
  | .src source => stimWord 2 1 (fieldAt source.code 0)
  | .pin n line level => stimWord 2 2 (fieldAt n 4 ||| fieldAt line.code 1 ||| fieldAt (BitVec.ofBool level) 0)
  | .sync n => stimWord 2 3 (fieldAt n 0)
  | .ack0 => stimWord 2 4 0
  | .reserved payload => (3#24 <<< 22) ||| payload.setWidth 24

/-! ## The written words of the driver operations, R70

`v` is the word the operation's `RD` returned. Each constant is R70's. -/

/-- `config_clock`: the source at 9:8, the divider at 7:6, all other bits 0 (R70 row 1, R74). -/
def configClockData (source : ClockSource) (divider : PrimaryDivider) : Word :=
  fieldAt source.code 8 ||| fieldAt divider.code 6

/-- `set_expansion_divider`: the divisor minus 1 (R70 row 2). -/
def expansionDividerData (e : Nat) : Word := BitVec.ofNat 16 (e - 1)

/-- `reset()`, R70 row 3: set `TACLR`. -/
def driverResetData (v : Word) : Word := v ||| 0x0004

/-- `upmode()`, R70 row 4. -/
def upmodeData (v : Word) : Word := (v &&& 0xFFCE) ||| 0x0014

/-- `continuous()`, R70 row 5. -/
def continuousData (v : Word) : Word := (v &&& 0xFFCE) ||| 0x0024

/-- `stop()`, R70 row 6: clear `MC`. -/
def stopData (v : Word) : Word := v &&& 0xFFCF

/-- `overflow_flag_clear()`, R70 row 9: clear bit 0. -/
def overflowFlagClearData (v : Word) : Word := v &&& 0xFFFE

/-- `overflow_interrupt_enable()`, R70 row 10: set `TAIE`. -/
def overflowInterruptEnableData (v : Word) : Word := v ||| 0x0002

/-- `overflow_interrupt_disable()`, R70 row 11: clear `TAIE`. -/
def overflowInterruptDisableData (v : Word) : Word := v &&& 0xFFFD

/-- `config_output_mode`, R70 row 12: the mode at 7:5. -/
def configOutputModeData (mode : OutputMode) : Word := fieldAt mode.code 5

/-- `config_capture_mode`, R70 row 13: the edge at 15:14, the input at 13:12, `SCS` and `CAP`. -/
def configCaptureModeData (edge : CaptureEdge) (input : CaptureInput) : Word :=
  fieldAt edge.code 14 ||| fieldAt input.code 12 ||| 0x0900

/-- `flag_clear()`, R70 row 17: clear bit 0. -/
def flagClearData (v : Word) : Word := v &&& 0xFFFE

/-- `enable()`, R70 row 18: set `CCIE`. -/
def enableData (v : Word) : Word := v ||| 0x0010

/-- `disable()`, R70 row 19: clear `CCIE`. -/
def disableData (v : Word) : Word := v &&& 0xFFEF

/-- `clear_overflow_and_flag()`, R70 row 21: clear `COV` and `CCIFG`. -/
def clearOverflowAndFlagData (v : Word) : Word := v &&& 0xFFFC

/-! ## Instructions as stimuli -/

/-- The stimuli an instruction stands for: itself for a stimulus, the expansion of R70 for a driver operation, whose
`WR` data is computed from the value `v` its `RD` returned. -/
def Instr.stims : Instr → Word → List Stim
  | .rdCtl, _ => [.rd .ctl]
  | .wrCtl data, _ => [.wr .ctl data]
  | .rdCctl0, _ => [.rd (.cctl 0)]
  | .wrCctl0 data, _ => [.wr (.cctl 0) data]
  | .rdCctl1, _ => [.rd (.cctl 1)]
  | .wrCctl1 data, _ => [.wr (.cctl 1) data]
  | .rdCctl2, _ => [.rd (.cctl 2)]
  | .wrCctl2 data, _ => [.wr (.cctl 2) data]
  | .rdCctl3, _ => [.rd (.cctl 3)]
  | .wrCctl3 data, _ => [.wr (.cctl 3) data]
  | .rdCctl4, _ => [.rd (.cctl 4)]
  | .wrCctl4 data, _ => [.wr (.cctl 4) data]
  | .rdCctl5, _ => [.rd (.cctl 5)]
  | .wrCctl5 data, _ => [.wr (.cctl 5) data]
  | .rdCctl6, _ => [.rd (.cctl 6)]
  | .wrCctl6 data, _ => [.wr (.cctl 6) data]
  | .rdR, _ => [.rd .r]
  | .wrR data, _ => [.wr .r data]
  | .rdCcr0, _ => [.rd (.ccr 0)]
  | .wrCcr0 data, _ => [.wr (.ccr 0) data]
  | .rdCcr1, _ => [.rd (.ccr 1)]
  | .wrCcr1 data, _ => [.wr (.ccr 1) data]
  | .rdCcr2, _ => [.rd (.ccr 2)]
  | .wrCcr2 data, _ => [.wr (.ccr 2) data]
  | .rdCcr3, _ => [.rd (.ccr 3)]
  | .wrCcr3 data, _ => [.wr (.ccr 3) data]
  | .rdCcr4, _ => [.rd (.ccr 4)]
  | .wrCcr4 data, _ => [.wr (.ccr 4) data]
  | .rdCcr5, _ => [.rd (.ccr 5)]
  | .wrCcr5 data, _ => [.wr (.ccr 5) data]
  | .rdCcr6, _ => [.rd (.ccr 6)]
  | .wrCcr6 data, _ => [.wr (.ccr 6) data]
  | .rdEx0, _ => [.rd .ex0]
  | .wrEx0 data, _ => [.wr .ex0 data]
  | .rdIv, _ => [.rd .iv]
  | .wrIv data, _ => [.wr .iv data]
  | .reset, _ => [.reset]
  | .src source, _ => [.src source]
  | .pin n line level, _ => [.pin n line level]
  | .sync n, _ => [.sync n]
  | .ack0, _ => [.ack0]
  | .reservedKind payload, _ => [.reserved payload]
  | .configClock source divider, _ => [.wr .ctl (configClockData source divider)]
  | .setExpansionDivider e, _ => [.wr .ex0 (expansionDividerData e)]
  | .driverReset, v => [.rd .ctl, .wr .ctl (driverResetData v)]
  | .upmode, v => [.rd .ctl, .wr .ctl (upmodeData v)]
  | .continuous, v => [.rd .ctl, .wr .ctl (continuousData v)]
  | .stop, v => [.rd .ctl, .wr .ctl (stopData v)]
  | .isStopped, _ => [.rd .ctl]
  | .overflowFlagRead, _ => [.rd .ctl]
  | .overflowFlagClear, v => [.rd .ctl, .wr .ctl (overflowFlagClearData v)]
  | .overflowInterruptEnable, v => [.rd .ctl, .wr .ctl (overflowInterruptEnableData v)]
  | .overflowInterruptDisable, v => [.rd .ctl, .wr .ctl (overflowInterruptDisableData v)]
  | .chConfigOutputMode n mode, _ => [.wr (.cctl n) (configOutputModeData mode)]
  | .chConfigCaptureMode n edge input, _ => [.wr (.cctl n) (configCaptureModeData edge input)]
  | .chSetValue n x, _ => [.wr (.ccr n) x]
  | .chGetValue n, _ => [.rd (.ccr n)]
  | .chFlagRead n, _ => [.rd (.cctl n)]
  | .chFlagClear n, v => [.rd (.cctl n), .wr (.cctl n) (flagClearData v)]
  | .chEnable n, v => [.rd (.cctl n), .wr (.cctl n) (enableData v)]
  | .chDisable n, v => [.rd (.cctl n), .wr (.cctl n) (disableData v)]
  | .chCaptureOverflowAndFlagRead n, _ => [.rd (.cctl n)]
  | .chClearOverflowAndFlag n, v => [.rd (.cctl n), .wr (.cctl n) (clearOverflowAndFlagData v)]
  | .readVector, _ => [.rd .iv]

/-- The words of an instruction, R60 to R62 and R70: one word for a stimulus (and then `v` is not used), the words of
the expansion for a driver operation whose `RD` returned `v`. -/
def encode (i : Instr) (v : Word) : List StimWord :=
  (i.stims v).map Stim.encode

/-! ## The opcode table's numbering -/

/-- The stimulus words of a table row's bits: bit 0 of `w` is bit 0 of the first word, and a second word's bits count
on from bit 24; bits at and above `nbits` are 0. -/
def tableWords (nbits w : Nat) : List StimWord :=
  (List.range (max 1 ((nbits + 23) / 24))).map fun k => BitVec.ofNat 24 ((w % 2 ^ nbits) >>> (24 * k))

/-- The instruction the decoder reads from a table row's bits. A row of two words is a driver operation, which the
decoder does not know; it reads the first word's stimulus. -/
def decodeTableWord (nbits w : Nat) : Option Instr :=
  match tableWords nbits w with
  | first :: _ => (decode first).toOption
  | [] => none

end Sys2Proof
end

