-- ==== Sys2Proof/Config.lean ====
section
/-! DEFINITION. What is fixed for the machine and what the spec leaves open: the configuration record
`Cfg` (R5), the launch value the model names for it (log 1), and the free value behind `draw(16)`. -/

namespace Sys2Proof

/-- The parameters of the block, R5: `Cfg = {N_CH, BASE, N_TIMERS}`. It stands in State, no step changes it,
and every statement about all states holds for every value of it. `BASE` is "never used by any rule" and
instances are independent (R6), so no definition reads `base` or `nTimers`. -/
structure Cfg where
  /-- `N_CH - 1`, the index of the last wired channel: 1 <= N_CH <= 7, wired contiguously from 0 (R5). -/
  lastCh : Chan
  /-- `BASE`, the bus address of the register block. -/
  base : Nat
  /-- `N_TIMERS`, the number of instances on the chip. -/
  nTimers : Nat
deriving DecidableEq, Repr

/-- The configuration at launch. DESIGN CHOICE (log 1), unsafe: the spec leaves all three open; 3 channels and
4 timers are the source's examples (R5), and its test vectors take `N_CH == 3`. -/
def Cfg.launch : Cfg := { lastCh := 2, base := 0, nTimers := 4 }

/-- `draw(16)` of R9 and R163: "an arbitrary `N`-bit value, chosen afresh each time, under no law". A free value
(log 7): no body, so nothing can be proved about which word it is. It is applied to the counter `State.draws`. -/
opaque Config.draw : Nat → Word

end Sys2Proof
end

