-- ==== Sys2Proof/Machine/State.lean ====
section
/-! DEFINITION. The state of one `TIMER` instance (R10) as plain data, the bookkeeping a run needs, and the state
right after reset (R26). -/

namespace Sys2Proof.Machine

/-- The state of one channel, R10, R14, R15, R19 to R22. `CCTL[n].CCI` has no storage (R14). -/
structure Channel where
  /-- `CCTL[n].CM`, capture edge selection. -/
  cm : CaptureEdge
  /-- `CCTL[n].CCIS`, capture input selection. -/
  ccis : CaptureInput
  /-- `CCTL[n].SCS`, capture synchronisation. -/
  scs : Bool
  /-- `CCTL[n].SCCI`, the selected input as latched at the last EQUn. -/
  scci : Bool
  /-- `CCTL[n].CAP`: false Compare role, true Capture role. -/
  cap : Bool
  /-- `CCTL[n].OUTMOD`, output mode. -/
  outmod : OutputMode
  /-- `CCTL[n].CCIE`, channel interrupt enable. -/
  ccie : Bool
  /-- `CCTL[n].OUT`, the level driven in output mode 0. -/
  out : Bool
  /-- `CCTL[n].COV`, capture overflow latch. -/
  cov : Bool
  /-- `CCTL[n].CCIFG`, channel interrupt flag. -/
  ccifg : Bool
  /-- `CCR[n]`, the compare/capture register. -/
  ccr : Word
  /-- `out_sig[n]`, the level of the output signal. -/
  outSig : Bool
  /-- `cci_a[n]`, the level of external input line A. -/
  cciA : Bool
  /-- `cci_b[n]`, the level of external input line B. -/
  cciB : Bool
  /-- `cap_req[n]`, the synchroniser's request latch. -/
  capReq : Bool
  /-- `unread[n]`: a capture has not been read yet. -/
  unread : Bool
deriving DecidableEq, Repr

/-- The places of the seven possible channels. Those at and above `N_CH` are not wired; no step reads or writes them. -/
structure Channels where
  c0 : Channel
  c1 : Channel
  c2 : Channel
  c3 : Channel
  c4 : Channel
  c5 : Channel
  c6 : Channel
deriving DecidableEq, Repr

/-- The hardware state of one instance: R10's record but for its two bookkeeping entries `refused` and `pc`. -/
structure Timer where
  /-- `TAR`, the counter. -/
  tar : Word
  /-- `CTL.TASSEL`, clock source. -/
  tassel : ClockSource
  /-- `CTL.ID`, primary divider. -/
  id : PrimaryDivider
  /-- `CTL.MC`, run mode; its fourth code cannot stand in a state (R28). -/
  mc : RunMode
  /-- `CTL.TAIE`, overflow interrupt enable. -/
  taie : Bool
  /-- `CTL.TAIFG`, overflow interrupt flag. -/
  taifg : Bool
  /-- `EX0.TAIDEX`, expansion divider code: divide by `TAIDEX + 1`. -/
  taidex : BitVec 3
  /-- `presc`, the divider chain's down counter, 0..63. -/
  presc : BitVec 6
  /-- The channels. -/
  chans : Channels
deriving DecidableEq, Repr

/-- Why a stimulus was refused, R215, with the value the spec's table says is recorded. A refusal is not a stop of this
model: its effect is a next state, see `Sys2Proof.Machine.refuse`. -/
inductive RefusalCause where
  /-- `RF1`: reserved kind; the word. -/
  | rf1 (w : StimWord)
  /-- `RF2`: odd offset; `OFF`. -/
  | rf2 (off : BitVec 6)
  /-- `RF3`: unmapped offset; `OFF`. -/
  | rf3 (off : BitVec 6)
  /-- `RF4`: register of a channel that is not wired; `n`. -/
  | rf4 (n : Chan)
  /-- `RF5`: read word with data; the word. -/
  | rf5 (w : StimWord)
  /-- `RF6`: malformed event word, or an event on a channel that is not wired; the word. -/
  | rf6 (w : StimWord)
  /-- `RF7`: a write of run-mode code 3; the data. -/
  | rf7 (d : Word)
deriving DecidableEq, Repr

/-- What a driver operation returns, the column "result" of R70. -/
inductive OpResult where
  /-- A truth value: `is_stopped`, `overflow_flag_read`, `flag_read`. -/
  | truth (b : Bool)
  /-- The pair `(overflow, flag)` of `capture_overflow_and_flag_read`. -/
  | pair (overflow flag : Bool)
  /-- A word: `get_value`, `read_vector`. -/
  | value (x : Word)
deriving DecidableEq, Repr

/-- The state a step works on: the instance and the bookkeeping of a run. -/
structure State where
  /-- The configuration `Cfg` of R5 (log 1); no step changes it. -/
  cfg : Cfg
  /-- The hardware state of the instance. -/
  timer : Timer
  /-- `refused`, R23: set by any refusal, never cleared. -/
  refused : Bool
  /-- `pc`, R12: the index of the next stimulus. -/
  pc : Nat
  /-- The stimulus list of the run, R12, R27 (log 2); no step changes it. -/
  stimuli : List StimWord
  /-- The MODEL's own: for each two-transaction driver operation to come, the stimulus words that fall between its `RD`
  and its `WR` (R46, R243, log 3). -/
  gaps : List (List StimWord)
  /-- The MODEL's own: what the last stimulus returned on the bus, none if it was no completed `RD` (log 6). -/
  rdata : Option Word
  /-- The MODEL's own: what the last driver operation returned, none if it returns nothing (log 6). -/
  result : Option OpResult
  /-- The refusals so far, oldest first: cause and index of the stimulus (R215, log 5). -/
  refusals : List (RefusalCause × Nat)
  /-- The MODEL's own: the counter the free values `draw(16)` are indexed by (log 7). -/
  draws : Nat
deriving DecidableEq, Repr

/-- The faults: the one way a step has no next state. -/
inductive Fault where
  /-- Raised by `step` when `pc` is not an index of the stimulus list: "a run ends when `pc` equals the length of the
  list" (R12). SAFE: the machine waits for a stimulus that never comes, and no claim about a later state can be proved. -/
  | endOfStimuli
deriving DecidableEq, Repr

/-- The refusals of the host's interface. The spec's refusals RF1..RF7 are not among them: they have an effect (R215). -/
inductive Refusal where
  /-- Raised by an arm of `exec` whose instruction has no meaning yet: none is left. SAFE. -/
  | notModelled (mnemonic : String)
deriving DecidableEq, Repr

/-- A channel after reset, R26. The two input levels belong to the environment and are not reset; the launch takes 0 (log 4). -/
def Channel.initial : Channel :=
  { cm := .none, ccis := .lineA, scs := false, scci := false, cap := false, outmod := .out, ccie := false, out := false,
    cov := false, ccifg := false, ccr := 0, outSig := false, cciA := false, cciB := false, capReq := false, unread := false }

/-- The seven places after reset, R26. -/
def Channels.initial : Channels :=
  ⟨.initial, .initial, .initial, .initial, .initial, .initial, .initial⟩

/-- The instance after reset, R26. -/
def Timer.initial : Timer :=
  { tar := 0, tassel := .external, id := .div1, mc := .stopped, taie := false, taifg := false, taidex := 0, presc := 0,
    chans := .initial }

/-- The machine right after reset, at the start of a run: R26 for the instance, `refused` and `pc`; the configuration of
log 1; nothing loaded, nothing returned, nothing refused. -/
def State.reset : State :=
  { cfg := Cfg.launch, timer := .initial, refused := false, pc := 0, stimuli := [], gaps := [], rdata := none,
    result := none, refusals := [], draws := 0 }

end Sys2Proof.Machine
end

