-- ==== Sys2Proof/Machine/Operands.lean ====
section
/-! DEFINITION. Operand forms: the channel places, the wired channels, the derived signals of R25, and the register
layouts of R63, R64, R69 in both directions. -/

namespace Sys2Proof.Machine

/-! ## Channels -/

/-- The place of channel `n`. -/
def Channels.get (cs : Channels) (n : Chan) : Channel :=
  match n with
  | 0 => cs.c0
  | 1 => cs.c1
  | 2 => cs.c2
  | 3 => cs.c3
  | 4 => cs.c4
  | 5 => cs.c5
  | 6 => cs.c6

/-- Channel `n` replaced, the others kept. -/
def Channels.set (cs : Channels) (n : Chan) (c : Channel) : Channels :=
  match n with
  | 0 => { cs with c0 := c }
  | 1 => { cs with c1 := c }
  | 2 => { cs with c2 := c }
  | 3 => { cs with c3 := c }
  | 4 => { cs with c4 := c }
  | 5 => { cs with c5 := c }
  | 6 => { cs with c6 := c }

/-- Every channel mapped, with its index. -/
def Channels.mapIdx (f : Chan → Channel → Channel) (cs : Channels) : Channels :=
  ⟨f 0 cs.c0, f 1 cs.c1, f 2 cs.c2, f 3 cs.c3, f 4 cs.c4, f 5 cs.c5, f 6 cs.c6⟩

/-- Channel `n` of the instance. -/
def Timer.chan (t : Timer) (n : Chan) : Channel := t.chans.get n

/-- Channel `n` of the instance replaced. -/
def Timer.setChan (t : Timer) (n : Chan) (c : Channel) : Timer := { t with chans := t.chans.set n c }

/-- `N_CH`, R5. -/
def nCh (cfg : Cfg) : Nat := cfg.lastCh.val + 1

/-- Channel `n` is wired: `n < N_CH` (R5). -/
def wired (cfg : Cfg) (n : Chan) : Bool := decide (n.val < nCh cfg)

/-- The wired channels mapped; the other places are kept ("every `[n]` ranges over `0 .. N_CH-1`", 10_state.md). -/
def Timer.mapWired (cfg : Cfg) (f : Channel → Channel) (t : Timer) : Timer :=
  { t with chans := t.chans.mapIdx fun n c => if wired cfg n then f c else c }

/-- The wired channel an event's three-bit channel field names, none where no such channel is wired (R62). -/
def eventChan (cfg : Cfg) (n : BitVec 3) : Option Chan :=
  if h : n.toNat < 7 then
    if wired cfg ⟨n.toNat, h⟩ then some ⟨n.toNat, h⟩ else none
  else none

/-! ## Derived signals, R25 -/

/-- `cci_sel(n)`, the level of the selected input, R25. -/
def cciSel (c : Channel) : Bool :=
  match c.ccis with
  | .lineA => c.cciA
  | .lineB => c.cciB
  | .low => false
  | .high => true

/-- The divisor of a primary divider setting, R66: `1 << ID`. -/
def divisor (d : PrimaryDivider) : Nat := 1 <<< d.code.toNat

/-- `N()`, the number of source edges per tick, R25, R110. -/
def edgesPerTick (t : Timer) : Nat := divisor t.id * (t.taidex.toNat + 1)

/-- The value the divider chain is reloaded with, `N() - 1` (R111, R82): at most 63, so nothing is cut. -/
def prescReload (t : Timer) : BitVec 6 := BitVec.ofNat 6 (edgesPerTick t - 1)

/-! ## Register layouts -/

/-- `CTL` as a bus read returns it: layout R63, R81. Reserved bits and `TACLR` read 0. -/
def ctlWord (t : Timer) : Word :=
  fieldAt t.tassel.code 8 ||| fieldAt t.id.code 6 ||| fieldAt t.mc.code 4 ||| fieldAt (BitVec.ofBool t.taie) 1 |||
    fieldAt (BitVec.ofBool t.taifg) 0

/-- `CCTL[n]` as a bus read returns it: layout R64, R84. Bit 9 reads 0, bit 3 is the live input level. -/
def cctlWord (c : Channel) : Word :=
  fieldAt c.cm.code 14 ||| fieldAt c.ccis.code 12 ||| fieldAt (BitVec.ofBool c.scs) 11 |||
    fieldAt (BitVec.ofBool c.scci) 10 ||| fieldAt (BitVec.ofBool c.cap) 8 ||| fieldAt c.outmod.code 5 |||
    fieldAt (BitVec.ofBool c.ccie) 4 ||| fieldAt (BitVec.ofBool (cciSel c)) 3 ||| fieldAt (BitVec.ofBool c.out) 2 |||
    fieldAt (BitVec.ofBool c.cov) 1 ||| fieldAt (BitVec.ofBool c.ccifg) 0

/-- `EX0` as a bus read returns it: layout R69, R86. -/
def ex0Word (t : Timer) : Word := fieldAt t.taidex 0

/-- The fields a `CTL` write stores, R63, R82: `TASSEL`, `ID`, `TAIE`, `TAIFG` from the data and the run mode `mc`
already read off it. Bits 15:10 and 3 are ignored, bit 2 (`TACLR`) is not stored. -/
def storeCtl (d : Word) (mc : RunMode) (t : Timer) : Timer :=
  { t with
    tassel := ClockSource.ofCode (d.extractLsb' 8 2)
    id := PrimaryDivider.ofCode (d.extractLsb' 6 2)
    mc := mc
    taie := d.getLsbD 1
    taifg := d.getLsbD 0 }

/-- The fields a `CCTL[n]` write stores, R64, R85. Bits 10 (`SCCI`), 9 and 3 (`CCI`) are ignored. -/
def storeCctl (d : Word) (c : Channel) : Channel :=
  { c with
    cm := CaptureEdge.ofCode (d.extractLsb' 14 2)
    ccis := CaptureInput.ofCode (d.extractLsb' 12 2)
    scs := d.getLsbD 11
    cap := d.getLsbD 8
    outmod := OutputMode.ofCode (d.extractLsb' 5 3)
    ccie := d.getLsbD 4
    out := d.getLsbD 2
    cov := d.getLsbD 1
    ccifg := d.getLsbD 0 }

end Sys2Proof.Machine
end

