-- ==== Sys2Proof/Machine/Flags.lean ====
section
/-! DEFINITION. The interrupt flags and the arbiter: pending sources (R200), the two request outputs (R201, R202), the
vector value (R203, R204) and the acknowledge (R205, R207). -/

namespace Sys2Proof.Machine

/-- A source of the shared request line: a channel other than 0, or the overflow (R200, R206). -/
inductive VecSource where
  | channel (n : Chan)
  | overflow
deriving DecidableEq, Repr

/-- Channel `n` is a pending source: flag and enable both 1 (R200). -/
def channelPending (c : Channel) : Bool := c.ccifg && c.ccie

/-- The overflow is a pending source (R200). -/
def overflowPending (t : Timer) : Bool := t.taifg && t.taie

/-- The channels the vector register looks at, in priority order: channel 1 first (R204). Channel 0 is not among them
(R206). -/
def vectorChans : List Chan := [1, 2, 3, 4, 5, 6]

/-- The highest-priority pending source among channels 1..N_CH-1 and overflow, R203: ascending channels, overflow
last. -/
def highestPending (cfg : Cfg) (t : Timer) : Option VecSource :=
  match vectorChans.find? (fun n => wired cfg n && channelPending (t.chan n)) with
  | some n => some (.channel n)
  | none => if overflowPending t then some .overflow else none

/-- The code of a source, R69: `VEC(n)` is `2n`, `VEC_OVF` 14, `VEC_NONE` 0. -/
def vecCode : Option VecSource → Word
  | none => 0
  | some (.channel n) => BitVec.ofNat 16 (2 * n.val)
  | some .overflow => 14

/-- `IVVAL()`, R203: the value of the vector register. -/
def ivVal (cfg : Cfg) (t : Timer) : Word := vecCode (highestPending cfg t)

/-- `irq_ccr0`, R201. -/
def irqCcr0 (t : Timer) : Bool := channelPending (t.chan 0)

/-- `irq_iv`, R202. -/
def irqIv (cfg : Cfg) (t : Timer) : Bool := ivVal cfg t != 0

/-- The flag of channel `n` cleared; nothing else of it changes. -/
def clearCcifg (n : Chan) (t : Timer) : Timer := t.setChan n { t.chan n with ccifg := false }

/-- `ACK(x)`, R205: the one flag reported is cleared; the enables are not touched. -/
def acknowledge (src : Option VecSource) (t : Timer) : Timer :=
  match src with
  | none => t
  | some (.channel n) => clearCcifg n t
  | some .overflow => { t with taifg := false }

end Sys2Proof.Machine
end

