-- ==== Sys2Proof/Machine/Ops.lean ====
section
/-! DEFINITION. The named operations: the hardware steps (`CAPTURE`, `TRIGGER`, edge detection, the output unit,
`COMPARE`, `TICK`, the divider chain), how a stimulus ends (completed, answered, refused), the bus transactions on
each register, the events, a stimulus word carried out, and the shapes of the driver operations.

The block takes no exception, saves nothing and returns from nothing (R209, R210, R216). What stands in their place
is here: the refusal (`refuse`, R215), the acknowledge by a vector access (`rdIv`, `wrIv`, R205) and by the interrupt
controller (`evAck0`, R207). -/

namespace Sys2Proof.Machine

/-! ## Capture role, R161 to R165 -/

/-- `CAPTURE(n, v)`, R165. -/
def capture (v : Word) (c : Channel) : Channel :=
  { c with ccr := v, cov := c.cov || c.unread, unread := true, ccifg := true }

/-- `TRIGGER(n)`, R163: latch a request when synchronised; else capture at once the free value `fv`, `draw(16)`. -/
def trigger (fv : Word) (c : Channel) : Channel :=
  if c.scs then { c with capReq := true } else capture fv c

/-- The edge the new level makes is one `CM` selects, R161. -/
def edgeHit (cm : CaptureEdge) (old new : Bool) : Bool :=
  match cm with
  | .none => false
  | .rising => !old && new
  | .falling => old && !new
  | .both => old != new

/-- `edge_detect(n, old, new)`, R161: only in Capture role, only the selected edges. -/
def edgeDetect (fv : Word) (old new : Bool) (c : Channel) : Channel :=
  if c.cap && edgeHit c.cm old new then trigger fv c else c

/-- The selected level after the change is compared with the one before it, and a difference is an edge (R85, R160,
R162). -/
def detectChange (fv : Word) (old : Bool) (c : Channel) : Channel :=
  if cciSel c != old then edgeDetect fv old (cciSel c) c else c

/-- `step_SYNC(n)` of R164 on one channel: `tar` is the counter at this stimulus. -/
def syncFire (tar : Word) (c : Channel) : Channel :=
  if c.capReq then
    if c.cap then capture tar { c with capReq := false } else { c with capReq := false }
  else c

/-- An external input line takes a level (R160). -/
def setLine (line : Line) (level : Bool) (c : Channel) : Channel :=
  match line with
  | .a => { c with cciA := level }
  | .b => { c with cciB := level }

/-! ## Compare role and output unit, R150 to R158 -/

/-- `OUT_MATCH(n)`, R156. -/
def outMatch (c : Channel) : Channel :=
  match c.outmod with
  | .out => c
  | .set => { c with outSig := true }
  | .toggleReset => { c with outSig := !c.outSig }
  | .setReset => { c with outSig := true }
  | .toggle => { c with outSig := !c.outSig }
  | .reset => { c with outSig := false }
  | .toggleSet => { c with outSig := !c.outSig }
  | .resetSet => { c with outSig := false }

/-- `OUT_TOP(n)`, R156. -/
def outTop (c : Channel) : Channel :=
  match c.outmod with
  | .out => c
  | .set => c
  | .toggleReset => { c with outSig := false }
  | .setReset => { c with outSig := false }
  | .toggle => c
  | .reset => c
  | .toggleSet => { c with outSig := true }
  | .resetSet => { c with outSig := true }

/-- One channel's part of `COMPARE(new)`, R150: only in Compare role (R158); flag, `SCCI` and match action at EQUn, top
action at EQU0, the top action second (R157). -/
def compareChannel (new : Word) (equ0 : Bool) (c : Channel) : Channel :=
  if c.cap then c
  else
    let matched := if new = c.ccr then outMatch { c with ccifg := true, scci := cciSel c } else c
    if equ0 then outTop matched else matched

/-- `COMPARE(new)`, R150, on every wired channel; EQU0 is `new == CCR[0]` whatever the mode and channel 0's role are
(R158). -/
def compareStep (cfg : Cfg) (new : Word) (t : Timer) : Timer :=
  t.mapWired cfg (compareChannel new (decide (new = (t.chan 0).ccr)))

/-! ## Counting, R126 to R131 -/

/-- The end of `TICK()`, R126: the counter's new value, the overflow flag on a wrap (R128), the comparators. -/
def countTo (cfg : Cfg) (new : Word) (ovf : Bool) (t : Timer) : Timer :=
  compareStep cfg new { t with tar := new, taifg := t.taifg || ovf }

/-- `TICK()`, R126: Up mode R127, R130, R131; Continuous mode R129. It is not reached in Stopped mode (R113), where it
does nothing. -/
def tick (cfg : Cfg) (t : Timer) : Timer :=
  match t.mc with
  | .stopped => t
  | .up =>
    if (t.chan 0).ccr = 0 then t
    else if (t.chan 0).ccr ≤ t.tar then countTo cfg 0 true t
    else countTo cfg (t.tar + 1) false t
  | .continuous => countTo cfg (t.tar + 1) (decide (t.tar = 0xFFFF)) t

/-- `step_SRC(s)`, R111: ignored when Stopped or not selected; else the divider chain counts down, and at 0 reloads with
the divisors as they are now (R112) and ticks. -/
def sourceEdge (cfg : Cfg) (source : ClockSource) (t : Timer) : Timer :=
  if t.mc = .stopped then t
  else if source ≠ t.tassel then t
  else if t.presc ≠ 0 then { t with presc := t.presc - 1 }
  else tick cfg { t with presc := prescReload t }

/-! ## Register writes -/

/-- `write_CTL(d)`, R82, for a run mode `mc` with a meaning: all fields in one step, then the clear pulse with the `ID`
just written. -/
def writeCtl (d : Word) (mc : RunMode) (t : Timer) : Timer :=
  let stored := storeCtl d mc t
  if d.getLsbD 2 then { stored with tar := 0, presc := prescReload stored } else stored

/-- Output mode 0 follows the `OUT` bit at the write, R155. -/
def followOut (c : Channel) : Channel :=
  if c.outmod = .out then { c with outSig := c.out } else c

/-- `write_CCTL(n, d)`, R85, on one channel; `fv` is the free value of an unsynchronised capture. -/
def writeCctl (fv : Word) (d : Word) (c : Channel) : Channel :=
  detectChange fv (cciSel c) (followOut (storeCctl d c))

/-- `RESET` on one channel, R230: everything to R26 but the two input levels (R231). -/
def resetChannel (c : Channel) : Channel :=
  { Channel.initial with cciA := c.cciA, cciB := c.cciB }

/-- `RESET` on the instance, R230, R231. -/
def resetTimer (cfg : Cfg) (t : Timer) : Timer :=
  { Timer.initial with chans := (t.mapWired cfg resetChannel).chans }

/-! ## How a stimulus ends -/

/-- A stimulus other than a read completes: the instance is `t`, `pc` moves on by 1 (R12), nothing is returned. -/
def complete (t : Timer) (s : State) : State :=
  { s with timer := t, pc := s.pc + 1, rdata := none }

/-- A read completes with the value `v`. -/
def answer (v : Word) (t : Timer) (s : State) : State :=
  { s with timer := t, pc := s.pc + 1, rdata := some v }

/-- A refusal, R215: the instance is unchanged, `refused` is set for good (R23), the cause and the index of the stimulus
are recorded, `pc` moves on by 1. Nothing is returned. -/
def refuse (cause : RefusalCause) (s : State) : State :=
  { s with refused := true, pc := s.pc + 1, rdata := none, refusals := s.refusals ++ [(cause, s.pc)] }

/-- A stimulus that may capture an unsynchronised value has a free value of its own, `Config.draw` at the counter, and
advances the counter whether the value is used or not (R9: "chosen afresh each time"). -/
def withDraw (k : Word → State → State) (s : State) : State :=
  k (Config.draw s.draws) { s with draws := s.draws + 1 }

/-! ## Bus reads -/

/-- `RD CTL`, R81. -/
def rdCtl (s : State) : State := answer (ctlWord s.timer) s.timer s

/-- `RD CCTLn`, R84; `RF4` on a channel that is not wired. -/
def rdCctl (n : Chan) (s : State) : State :=
  if wired s.cfg n then answer (cctlWord (s.timer.chan n)) s.timer s else refuse (.rf4 n) s

/-- `RD R`, R88. -/
def rdR (s : State) : State := answer s.timer.tar s.timer s

/-- `RD CCRn`, R91: the read clears `unread[n]`; `RF4` on a channel that is not wired. -/
def rdCcr (n : Chan) (s : State) : State :=
  if wired s.cfg n then
    answer (s.timer.chan n).ccr (s.timer.setChan n { s.timer.chan n with unread := false }) s
  else refuse (.rf4 n) s

/-- `RD EX0`, R86. -/
def rdEx0 (s : State) : State := answer (ex0Word s.timer) s.timer s

/-- `RD IV`, R92: the value, then the acknowledge of the source it names. -/
def rdIv (s : State) : State :=
  answer (ivVal s.cfg s.timer) (acknowledge (highestPending s.cfg s.timer) s.timer) s

/-! ## Bus writes -/

/-- `WR CTL, d`, R82; run-mode code 3 is refused, `RF7` (R83). -/
def wrCtl (d : Word) (s : State) : State :=
  match RunMode.ofCode (d.extractLsb' 4 2) with
  | some mc => complete (writeCtl d mc s.timer) s
  | none => refuse (.rf7 d) s

/-- `WR CCTLn, d`, R85; `RF4` on a channel that is not wired. -/
def wrCctl (n : Chan) (d : Word) (s : State) : State :=
  if wired s.cfg n then
    withDraw (fun fv s' => complete (s'.timer.setChan n (writeCctl fv d (s'.timer.chan n))) s') s
  else refuse (.rf4 n) s

/-- `WR R, d`, R89. -/
def wrR (d : Word) (s : State) : State := complete { s.timer with tar := d } s

/-- `WR CCRn, d`, R90; `RF4` on a channel that is not wired. -/
def wrCcr (n : Chan) (d : Word) (s : State) : State :=
  if wired s.cfg n then complete (s.timer.setChan n { s.timer.chan n with ccr := d }) s else refuse (.rf4 n) s

/-- `WR EX0, d`, R87. -/
def wrEx0 (d : Word) (s : State) : State := complete { s.timer with taidex := d.extractLsb' 0 3 } s

/-- `WR IV, d`, R93: the data is ignored, the acknowledge is that of a read. -/
def wrIv (_d : Word) (s : State) : State :=
  complete (acknowledge (highestPending s.cfg s.timer) s.timer) s

/-! ## Events -/

/-- `RESET`, R230; `refused`, `pc` and the configuration are not touched (R231), but that the stimulus advances `pc`. -/
def evReset (s : State) : State := complete (resetTimer s.cfg s.timer) s

/-- `SRC s`, R111. -/
def evSrc (source : ClockSource) (s : State) : State := complete (sourceEdge s.cfg source s.timer) s

/-- `PIN n.L=v`, R160; `RF6` on a channel that is not wired (R62). -/
def evPin (n : BitVec 3) (line : Line) (level : Bool) (s : State) : State :=
  match eventChan s.cfg n with
  | some k =>
    withDraw (fun fv s' =>
      let c := s'.timer.chan k
      complete (s'.timer.setChan k (detectChange fv (cciSel c) (setLine line level c))) s') s
  | none => refuse (.rf6 (Stim.pin n line level).encode) s

/-- `SYNC n`, R164; `RF6` on a channel that is not wired (R62). -/
def evSync (n : BitVec 3) (s : State) : State :=
  match eventChan s.cfg n with
  | some k => complete (s.timer.setChan k (syncFire s.timer.tar (s.timer.chan k))) s
  | none => refuse (.rf6 (Stim.sync n).encode) s

/-- `ACK0`, R207: channel 0's flag is cleared, pending or not. -/
def evAck0 (s : State) : State := complete (clearCcifg 0 s.timer) s

/-- A word of the reserved kind is refused, `RF1` (R60, R72). -/
def evReserved (payload : BitVec 22) (s : State) : State :=
  refuse (.rf1 (Stim.reserved payload).encode) s

/-! ## Stimuli and stimulus words -/

/-- A bus read of a register (R80). -/
def busRead (reg : Reg) (s : State) : State :=
  match reg with
  | .ctl => rdCtl s
  | .cctl n => rdCctl n s
  | .r => rdR s
  | .ccr n => rdCcr n s
  | .ex0 => rdEx0 s
  | .iv => rdIv s

/-- A bus write of a register (R80). -/
def busWrite (reg : Reg) (d : Word) (s : State) : State :=
  match reg with
  | .ctl => wrCtl d s
  | .cctl n => wrCctl n d s
  | .r => wrR d s
  | .ccr n => wrCcr n d s
  | .ex0 => wrEx0 d s
  | .iv => wrIv d s

/-- A stimulus carried out: one atomic step (R7, R46). -/
def applyStim (st : Stim) (s : State) : State :=
  match st with
  | .rd reg => busRead reg s
  | .wr reg d => busWrite reg d s
  | .reset => evReset s
  | .src source => evSrc source s
  | .pin n line level => evPin n line level s
  | .sync n => evSync n s
  | .ack0 => evAck0 s
  | .reserved payload => evReserved payload s

/-- The refusal of a word the decoder rejects, R215. -/
def rejectCause : Reject → RefusalCause
  | .readDataNonzero w => .rf5 w
  | .oddOffset off => .rf2 off
  | .unmapped off => .rf3 off
  | .badEvent w => .rf6 w

/-- A stimulus word carried out: decoded, then its stimulus, or its refusal. -/
def applyWord (w : StimWord) (s : State) : State :=
  match decodeStim w with
  | .ok st => applyStim st s
  | .error e => refuse (rejectCause e) s

/-- Stimulus words carried out in order (R48). -/
def applyWords : List StimWord → State → State
  | [], s => s
  | w :: ws, s => applyWords ws (applyWord w s)

/-- The stimulus at `pc`, none at the end of the list (R12). -/
def fetch (s : State) : Option StimWord := s.stimuli[s.pc]?

/-- The stimulus list with `words` stored from index `at_` on; a list shorter than that is filled up with zero words. -/
def storeAt (at_ : Nat) (words stimuli : List StimWord) : List StimWord :=
  stimuli.take at_ ++ List.replicate (at_ - stimuli.length) 0 ++ words ++ stimuli.drop (at_ + words.length)

/-! ## Driver operations, R8, R70 -/

/-- What falls between the two transactions of the driver operation now under way is carried out, and is used up
(R46). -/
def fillGap (s : State) : State :=
  match s.gaps with
  | [] => s
  | gap :: rest => applyWords gap { s with gaps := rest }

/-- A driver operation of one write. It returns nothing. -/
def driverWrite (reg : Reg) (d : Word) (s : State) : State :=
  { busWrite reg d s with result := none }

/-- A driver operation of one read: its result is computed from the value read; a refused read gives none (log 8). -/
def driverRead (reg : Reg) (f : Word → OpResult) (s : State) : State :=
  let s' := busRead reg s
  { s' with result := s'.rdata.map f }

/-- A read-modify-write driver operation: the `RD`, whatever falls between, the `WR` of the value computed from what
the `RD` returned (R70, R46, R243). Where the `RD` was refused it returned nothing and the data is a free value; the
`WR` is then refused too, whatever the data (R80, log 8). It returns nothing. -/
def driverModify (reg : Reg) (f : Word → Word) (s : State) : State :=
  let read := busRead reg s
  let v := read.rdata.getD (Config.draw read.draws)
  { busWrite reg (f v) (fillGap read) with result := none }

end Sys2Proof.Machine
end

