-- ==== Sys2Proof/Machine/BusRead.lean ====
section
/-! DEFINITION. The meanings of the 18 bus reads, one definition per row, each over its shared read (R81, R84, R86, R88, R91,
R92). -/

namespace Sys2Proof.Machine

/-- `RD CTL`, R81. -/
def execRdCtl (s : State) : Host.Outcome State Fault Refusal := .next (rdCtl s)

/-- `RD CCTL0`, R84. -/
def execRdCctl0 (s : State) : Host.Outcome State Fault Refusal := .next (rdCctl 0 s)

/-- `RD CCTL1`, R84. -/
def execRdCctl1 (s : State) : Host.Outcome State Fault Refusal := .next (rdCctl 1 s)

/-- `RD CCTL2`, R84. -/
def execRdCctl2 (s : State) : Host.Outcome State Fault Refusal := .next (rdCctl 2 s)

/-- `RD CCTL3`, R84. -/
def execRdCctl3 (s : State) : Host.Outcome State Fault Refusal := .next (rdCctl 3 s)

/-- `RD CCTL4`, R84. -/
def execRdCctl4 (s : State) : Host.Outcome State Fault Refusal := .next (rdCctl 4 s)

/-- `RD CCTL5`, R84. -/
def execRdCctl5 (s : State) : Host.Outcome State Fault Refusal := .next (rdCctl 5 s)

/-- `RD CCTL6`, R84. -/
def execRdCctl6 (s : State) : Host.Outcome State Fault Refusal := .next (rdCctl 6 s)

/-- `RD R`, R88. -/
def execRdR (s : State) : Host.Outcome State Fault Refusal := .next (rdR s)

/-- `RD CCR0`, R91. -/
def execRdCcr0 (s : State) : Host.Outcome State Fault Refusal := .next (rdCcr 0 s)

/-- `RD CCR1`, R91. -/
def execRdCcr1 (s : State) : Host.Outcome State Fault Refusal := .next (rdCcr 1 s)

/-- `RD CCR2`, R91. -/
def execRdCcr2 (s : State) : Host.Outcome State Fault Refusal := .next (rdCcr 2 s)

/-- `RD CCR3`, R91. -/
def execRdCcr3 (s : State) : Host.Outcome State Fault Refusal := .next (rdCcr 3 s)

/-- `RD CCR4`, R91. -/
def execRdCcr4 (s : State) : Host.Outcome State Fault Refusal := .next (rdCcr 4 s)

/-- `RD CCR5`, R91. -/
def execRdCcr5 (s : State) : Host.Outcome State Fault Refusal := .next (rdCcr 5 s)

/-- `RD CCR6`, R91. -/
def execRdCcr6 (s : State) : Host.Outcome State Fault Refusal := .next (rdCcr 6 s)

/-- `RD EX0`, R86. -/
def execRdEx0 (s : State) : Host.Outcome State Fault Refusal := .next (rdEx0 s)

/-- `RD IV`, R92. -/
def execRdIv (s : State) : Host.Outcome State Fault Refusal := .next (rdIv s)

end Sys2Proof.Machine
end

