-- ==== Sys2Proof/Machine/BusWrite.lean ====
section
/-! DEFINITION. The meanings of the 18 bus writes, one definition per row, each over its shared write (R82, R85, R87, R89, R90,
R93). -/

namespace Sys2Proof.Machine

/-- `WR CTL, data`, R82, R83. -/
def execWrCtl (data : Word) (s : State) : Host.Outcome State Fault Refusal := .next (wrCtl data s)

/-- `WR CCTL0, data`, R85. -/
def execWrCctl0 (data : Word) (s : State) : Host.Outcome State Fault Refusal := .next (wrCctl 0 data s)

/-- `WR CCTL1, data`, R85. -/
def execWrCctl1 (data : Word) (s : State) : Host.Outcome State Fault Refusal := .next (wrCctl 1 data s)

/-- `WR CCTL2, data`, R85. -/
def execWrCctl2 (data : Word) (s : State) : Host.Outcome State Fault Refusal := .next (wrCctl 2 data s)

/-- `WR CCTL3, data`, R85. -/
def execWrCctl3 (data : Word) (s : State) : Host.Outcome State Fault Refusal := .next (wrCctl 3 data s)

/-- `WR CCTL4, data`, R85. -/
def execWrCctl4 (data : Word) (s : State) : Host.Outcome State Fault Refusal := .next (wrCctl 4 data s)

/-- `WR CCTL5, data`, R85. -/
def execWrCctl5 (data : Word) (s : State) : Host.Outcome State Fault Refusal := .next (wrCctl 5 data s)

/-- `WR CCTL6, data`, R85. -/
def execWrCctl6 (data : Word) (s : State) : Host.Outcome State Fault Refusal := .next (wrCctl 6 data s)

/-- `WR R, data`, R89. -/
def execWrR (data : Word) (s : State) : Host.Outcome State Fault Refusal := .next (wrR data s)

/-- `WR CCR0, data`, R90. -/
def execWrCcr0 (data : Word) (s : State) : Host.Outcome State Fault Refusal := .next (wrCcr 0 data s)

/-- `WR CCR1, data`, R90. -/
def execWrCcr1 (data : Word) (s : State) : Host.Outcome State Fault Refusal := .next (wrCcr 1 data s)

/-- `WR CCR2, data`, R90. -/
def execWrCcr2 (data : Word) (s : State) : Host.Outcome State Fault Refusal := .next (wrCcr 2 data s)

/-- `WR CCR3, data`, R90. -/
def execWrCcr3 (data : Word) (s : State) : Host.Outcome State Fault Refusal := .next (wrCcr 3 data s)

/-- `WR CCR4, data`, R90. -/
def execWrCcr4 (data : Word) (s : State) : Host.Outcome State Fault Refusal := .next (wrCcr 4 data s)

/-- `WR CCR5, data`, R90. -/
def execWrCcr5 (data : Word) (s : State) : Host.Outcome State Fault Refusal := .next (wrCcr 5 data s)

/-- `WR CCR6, data`, R90. -/
def execWrCcr6 (data : Word) (s : State) : Host.Outcome State Fault Refusal := .next (wrCcr 6 data s)

/-- `WR EX0, data`, R87. -/
def execWrEx0 (data : Word) (s : State) : Host.Outcome State Fault Refusal := .next (wrEx0 data s)

/-- `WR IV, data`, R93. -/
def execWrIv (data : Word) (s : State) : Host.Outcome State Fault Refusal := .next (wrIv data s)

end Sys2Proof.Machine
end

