-- ==== Sys2Proof/Machine/DriverChannel.lean ====
section
/-! DEFINITION. The meanings of the driver operations on a channel (R70 rows 12 to 21). -/

namespace Sys2Proof.Machine

/-- `chN.config_output_mode(mode)`, R171. -/
def execChConfigOutputMode (n : Chan) (mode : OutputMode) (s : State) : Host.Outcome State Fault Refusal :=
  .next (driverWrite (.cctl n) (configOutputModeData mode) s)

/-- `chN.config_capture_mode(edge, input)`, R172. -/
def execChConfigCaptureMode (n : Chan) (edge : CaptureEdge) (input : CaptureInput) (s : State) : Host.Outcome State Fault Refusal :=
  .next (driverWrite (.cctl n) (configCaptureModeData edge input) s)

/-- `chN.set_value(x)`, R173. -/
def execChSetValue (n : Chan) (x : Word) (s : State) : Host.Outcome State Fault Refusal :=
  .next (driverWrite (.ccr n) x s)

/-- `chN.get_value()`, R174. -/
def execChGetValue (n : Chan) (s : State) : Host.Outcome State Fault Refusal :=
  .next (driverRead (.ccr n) .value s)

/-- `chN.flag_read()`, R175. -/
def execChFlagRead (n : Chan) (s : State) : Host.Outcome State Fault Refusal :=
  .next (driverRead (.cctl n) (fun v => .truth (v.getLsbD 0)) s)

/-- `chN.flag_clear()`, R176. -/
def execChFlagClear (n : Chan) (s : State) : Host.Outcome State Fault Refusal :=
  .next (driverModify (.cctl n) flagClearData s)

/-- `chN.enable()`, R177. -/
def execChEnable (n : Chan) (s : State) : Host.Outcome State Fault Refusal :=
  .next (driverModify (.cctl n) enableData s)

/-- `chN.disable()`, R178. -/
def execChDisable (n : Chan) (s : State) : Host.Outcome State Fault Refusal :=
  .next (driverModify (.cctl n) disableData s)

/-- `chN.capture_overflow_and_flag_read()`, R179. -/
def execChCaptureOverflowAndFlagRead (n : Chan) (s : State) : Host.Outcome State Fault Refusal :=
  .next (driverRead (.cctl n) (fun v => .pair (v.getLsbD 1) (v.getLsbD 0)) s)

/-- `chN.clear_overflow_and_flag()`, R180. -/
def execChClearOverflowAndFlag (n : Chan) (s : State) : Host.Outcome State Fault Refusal :=
  .next (driverModify (.cctl n) clearOverflowAndFlagData s)

end Sys2Proof.Machine
end

