-- ==== Sys2Proof/Machine/DriverTimer.lean ====
section
/-! DEFINITION. The meanings of the driver operations on the clock, the run mode, the overflow flag and the vector register
(R70 rows 1 to 11 and 22). -/

namespace Sys2Proof.Machine

/-- `config_clock(source, divider)`, R114. -/
def execConfigClock (source : ClockSource) (divider : PrimaryDivider) (s : State) : Host.Outcome State Fault Refusal :=
  .next (driverWrite .ctl (configClockData source divider) s)

/-- `set_expansion_divider(e)`, R115. -/
def execSetExpansionDivider (e : Nat) (s : State) : Host.Outcome State Fault Refusal :=
  .next (driverWrite .ex0 (expansionDividerData e) s)

/-- `reset()`, R132. -/
def execDriverReset (s : State) : Host.Outcome State Fault Refusal :=
  .next (driverModify .ctl driverResetData s)

/-- `upmode()`, R133. -/
def execUpmode (s : State) : Host.Outcome State Fault Refusal :=
  .next (driverModify .ctl upmodeData s)

/-- `continuous()`, R134. -/
def execContinuous (s : State) : Host.Outcome State Fault Refusal :=
  .next (driverModify .ctl continuousData s)

/-- `stop()`, R135. -/
def execStop (s : State) : Host.Outcome State Fault Refusal :=
  .next (driverModify .ctl stopData s)

/-- `is_stopped()`, R136. -/
def execIsStopped (s : State) : Host.Outcome State Fault Refusal :=
  .next (driverRead .ctl (fun v => .truth (v &&& 0x0030 == 0)) s)

/-- `overflow_flag_read()`, R137. -/
def execOverflowFlagRead (s : State) : Host.Outcome State Fault Refusal :=
  .next (driverRead .ctl (fun v => .truth (v.getLsbD 0)) s)

/-- `overflow_flag_clear()`, R138. -/
def execOverflowFlagClear (s : State) : Host.Outcome State Fault Refusal :=
  .next (driverModify .ctl overflowFlagClearData s)

/-- `overflow_interrupt_enable()`, R139. -/
def execOverflowInterruptEnable (s : State) : Host.Outcome State Fault Refusal :=
  .next (driverModify .ctl overflowInterruptEnableData s)

/-- `overflow_interrupt_disable()`, R140. -/
def execOverflowInterruptDisable (s : State) : Host.Outcome State Fault Refusal :=
  .next (driverModify .ctl overflowInterruptDisableData s)

/-- `read_vector()`, R190. -/
def execReadVector (s : State) : Host.Outcome State Fault Refusal :=
  .next (driverRead .iv .value s)

end Sys2Proof.Machine
end

