-- ==== Sys2Proof/Machine/Event.lean ====
section
/-! DEFINITION. The meanings of the five events (R62) and of the reserved kind (R60, R72). -/

namespace Sys2Proof.Machine

/-- `RESET`, R230, R231. -/
def execReset (s : State) : Host.Outcome State Fault Refusal := .next (evReset s)

/-- `SRC s`, R111. -/
def execSrc (source : ClockSource) (s : State) : Host.Outcome State Fault Refusal := .next (evSrc source s)

/-- `PIN n.L=v`, R160. -/
def execPin (n : BitVec 3) (line : Line) (level : Bool) (s : State) : Host.Outcome State Fault Refusal := .next (evPin n line level s)

/-- `SYNC n`, R164. -/
def execSync (n : BitVec 3) (s : State) : Host.Outcome State Fault Refusal := .next (evSync n s)

/-- `ACK0`, R207. -/
def execAck0 (s : State) : Host.Outcome State Fault Refusal := .next (evAck0 s)

/-- A word of the reserved kind, R72, R215. -/
def execReservedKind (payload : BitVec 22) (s : State) : Host.Outcome State Fault Refusal := .next (evReserved payload s)

end Sys2Proof.Machine
end

