-- ==== Sys2Proof/Machine/Dispatch.lean ====
section
/-! DEFINITION. `exec`: each instruction to its meaning. -/

namespace Sys2Proof.Machine

def exec (i : Instr) (s : State) : Host.Outcome State Fault Refusal :=
  match i with
  | .rdCtl => Sys2Proof.Machine.execRdCtl s
  | .wrCtl data => Sys2Proof.Machine.execWrCtl data s
  | .rdCctl0 => Sys2Proof.Machine.execRdCctl0 s
  | .wrCctl0 data => Sys2Proof.Machine.execWrCctl0 data s
  | .rdCctl1 => Sys2Proof.Machine.execRdCctl1 s
  | .wrCctl1 data => Sys2Proof.Machine.execWrCctl1 data s
  | .rdCctl2 => Sys2Proof.Machine.execRdCctl2 s
  | .wrCctl2 data => Sys2Proof.Machine.execWrCctl2 data s
  | .rdCctl3 => Sys2Proof.Machine.execRdCctl3 s
  | .wrCctl3 data => Sys2Proof.Machine.execWrCctl3 data s
  | .rdCctl4 => Sys2Proof.Machine.execRdCctl4 s
  | .wrCctl4 data => Sys2Proof.Machine.execWrCctl4 data s
  | .rdCctl5 => Sys2Proof.Machine.execRdCctl5 s
  | .wrCctl5 data => Sys2Proof.Machine.execWrCctl5 data s
  | .rdCctl6 => Sys2Proof.Machine.execRdCctl6 s
  | .wrCctl6 data => Sys2Proof.Machine.execWrCctl6 data s
  | .rdR => Sys2Proof.Machine.execRdR s
  | .wrR data => Sys2Proof.Machine.execWrR data s
  | .rdCcr0 => Sys2Proof.Machine.execRdCcr0 s
  | .wrCcr0 data => Sys2Proof.Machine.execWrCcr0 data s
  | .rdCcr1 => Sys2Proof.Machine.execRdCcr1 s
  | .wrCcr1 data => Sys2Proof.Machine.execWrCcr1 data s
  | .rdCcr2 => Sys2Proof.Machine.execRdCcr2 s
  | .wrCcr2 data => Sys2Proof.Machine.execWrCcr2 data s
  | .rdCcr3 => Sys2Proof.Machine.execRdCcr3 s
  | .wrCcr3 data => Sys2Proof.Machine.execWrCcr3 data s
  | .rdCcr4 => Sys2Proof.Machine.execRdCcr4 s
  | .wrCcr4 data => Sys2Proof.Machine.execWrCcr4 data s
  | .rdCcr5 => Sys2Proof.Machine.execRdCcr5 s
  | .wrCcr5 data => Sys2Proof.Machine.execWrCcr5 data s
  | .rdCcr6 => Sys2Proof.Machine.execRdCcr6 s
  | .wrCcr6 data => Sys2Proof.Machine.execWrCcr6 data s
  | .rdEx0 => Sys2Proof.Machine.execRdEx0 s
  | .wrEx0 data => Sys2Proof.Machine.execWrEx0 data s
  | .rdIv => Sys2Proof.Machine.execRdIv s
  | .wrIv data => Sys2Proof.Machine.execWrIv data s
  | .reset => Sys2Proof.Machine.execReset s
  | .src source => Sys2Proof.Machine.execSrc source s
  | .pin n line level => Sys2Proof.Machine.execPin n line level s
  | .sync n => Sys2Proof.Machine.execSync n s
  | .ack0 => Sys2Proof.Machine.execAck0 s
  | .reservedKind payload => Sys2Proof.Machine.execReservedKind payload s
  | .configClock source divider => Sys2Proof.Machine.execConfigClock source divider s
  | .setExpansionDivider e => Sys2Proof.Machine.execSetExpansionDivider e s
  | .driverReset => Sys2Proof.Machine.execDriverReset s
  | .upmode => Sys2Proof.Machine.execUpmode s
  | .continuous => Sys2Proof.Machine.execContinuous s
  | .stop => Sys2Proof.Machine.execStop s
  | .isStopped => Sys2Proof.Machine.execIsStopped s
  | .overflowFlagRead => Sys2Proof.Machine.execOverflowFlagRead s
  | .overflowFlagClear => Sys2Proof.Machine.execOverflowFlagClear s
  | .overflowInterruptEnable => Sys2Proof.Machine.execOverflowInterruptEnable s
  | .overflowInterruptDisable => Sys2Proof.Machine.execOverflowInterruptDisable s
  | .chConfigOutputMode n mode => Sys2Proof.Machine.execChConfigOutputMode n mode s
  | .chConfigCaptureMode n edge input => Sys2Proof.Machine.execChConfigCaptureMode n edge input s
  | .chSetValue n x => Sys2Proof.Machine.execChSetValue n x s
  | .chGetValue n => Sys2Proof.Machine.execChGetValue n s
  | .chFlagRead n => Sys2Proof.Machine.execChFlagRead n s
  | .chFlagClear n => Sys2Proof.Machine.execChFlagClear n s
  | .chEnable n => Sys2Proof.Machine.execChEnable n s
  | .chDisable n => Sys2Proof.Machine.execChDisable n s
  | .chCaptureOverflowAndFlagRead n => Sys2Proof.Machine.execChCaptureOverflowAndFlagRead n s
  | .chClearOverflowAndFlag n => Sys2Proof.Machine.execChClearOverflowAndFlag n s
  | .readVector => Sys2Proof.Machine.execReadVector s

end Sys2Proof.Machine
end

