-- ==== Sys2Proof/Machine/Step.lean ====
section
/-! DEFINITION. One step of a run: fetch the stimulus at `pc`, decode it, carry it out; and where a stimulus word is put
so that the next step fetches it. -/

namespace Sys2Proof.Machine

/-- One step (R7, R12). A word the decoder rejects is refused, which is a next state (R215); at the end of the stimulus
list the run ends with the fault `endOfStimuli`. -/
def step (s : State) : Host.Outcome State Fault Refusal :=
  match fetch s with
  | none => .fault .endOfStimuli
  | some w =>
    match decode w with
    | .ok i => exec i s
    | .error e => .next (refuse (rejectCause e) s)

/-- The state with the words of a table row stored at `pc` in the stimulus list, so that the next step fetches the first
of them. The entries before `pc` and after the stored words stay; a list shorter than `pc` is filled up with zero words,
which lie before `pc` and are never fetched. -/
def State.withFetchWord (s : State) (nbits w : Nat) : State :=
  { s with stimuli := storeAt s.pc (tableWords nbits w) s.stimuli }

end Sys2Proof.Machine
end

