-- ==== Sys2Proof/WellFormed.lean ====
section
/-! DEFINITION. Well-formed instructions: the operand checks that the operand types do not already make.
Enumerated operands cannot leave their set (R74: "unrepresentable by construction"), channel operands of driver
operations are 0..6 (R71); what remains is the divisor of `set_expansion_divider`, 1..8 (R115). -/

namespace Sys2Proof

/-- An instruction whose operands the spec allows. -/
def Instr.wellFormed : Instr → Bool
  | .rdCtl => true
  | .wrCtl _ => true
  | .rdCctl0 => true
  | .wrCctl0 _ => true
  | .rdCctl1 => true
  | .wrCctl1 _ => true
  | .rdCctl2 => true
  | .wrCctl2 _ => true
  | .rdCctl3 => true
  | .wrCctl3 _ => true
  | .rdCctl4 => true
  | .wrCctl4 _ => true
  | .rdCctl5 => true
  | .wrCctl5 _ => true
  | .rdCctl6 => true
  | .wrCctl6 _ => true
  | .rdR => true
  | .wrR _ => true
  | .rdCcr0 => true
  | .wrCcr0 _ => true
  | .rdCcr1 => true
  | .wrCcr1 _ => true
  | .rdCcr2 => true
  | .wrCcr2 _ => true
  | .rdCcr3 => true
  | .wrCcr3 _ => true
  | .rdCcr4 => true
  | .wrCcr4 _ => true
  | .rdCcr5 => true
  | .wrCcr5 _ => true
  | .rdCcr6 => true
  | .wrCcr6 _ => true
  | .rdEx0 => true
  | .wrEx0 _ => true
  | .rdIv => true
  | .wrIv _ => true
  | .reset => true
  | .src _ => true
  | .pin _ _ _ => true
  | .sync _ => true
  | .ack0 => true
  | .reservedKind _ => true
  | .configClock _ _ => true
  | .setExpansionDivider e => decide (1 ≤ e ∧ e ≤ 8)
  | .driverReset => true
  | .upmode => true
  | .continuous => true
  | .stop => true
  | .isStopped => true
  | .overflowFlagRead => true
  | .overflowFlagClear => true
  | .overflowInterruptEnable => true
  | .overflowInterruptDisable => true
  | .chConfigOutputMode _ _ => true
  | .chConfigCaptureMode _ _ _ => true
  | .chSetValue _ _ => true
  | .chGetValue _ => true
  | .chFlagRead _ => true
  | .chFlagClear _ => true
  | .chEnable _ => true
  | .chDisable _ => true
  | .chCaptureOverflowAndFlagRead _ => true
  | .chClearOverflowAndFlag _ => true
  | .readVector => true

/-- The driver operations of R70: the rows marked pseudo, which have no encoding of their own. The others are stimuli. -/
def Instr.isDriverOp : Instr → Bool
  | .rdCtl => false
  | .wrCtl _ => false
  | .rdCctl0 => false
  | .wrCctl0 _ => false
  | .rdCctl1 => false
  | .wrCctl1 _ => false
  | .rdCctl2 => false
  | .wrCctl2 _ => false
  | .rdCctl3 => false
  | .wrCctl3 _ => false
  | .rdCctl4 => false
  | .wrCctl4 _ => false
  | .rdCctl5 => false
  | .wrCctl5 _ => false
  | .rdCctl6 => false
  | .wrCctl6 _ => false
  | .rdR => false
  | .wrR _ => false
  | .rdCcr0 => false
  | .wrCcr0 _ => false
  | .rdCcr1 => false
  | .wrCcr1 _ => false
  | .rdCcr2 => false
  | .wrCcr2 _ => false
  | .rdCcr3 => false
  | .wrCcr3 _ => false
  | .rdCcr4 => false
  | .wrCcr4 _ => false
  | .rdCcr5 => false
  | .wrCcr5 _ => false
  | .rdCcr6 => false
  | .wrCcr6 _ => false
  | .rdEx0 => false
  | .wrEx0 _ => false
  | .rdIv => false
  | .wrIv _ => false
  | .reset => false
  | .src _ => false
  | .pin _ _ _ => false
  | .sync _ => false
  | .ack0 => false
  | .reservedKind _ => false
  | .configClock _ _ => true
  | .setExpansionDivider _ => true
  | .driverReset => true
  | .upmode => true
  | .continuous => true
  | .stop => true
  | .isStopped => true
  | .overflowFlagRead => true
  | .overflowFlagClear => true
  | .overflowInterruptEnable => true
  | .overflowInterruptDisable => true
  | .chConfigOutputMode _ _ => true
  | .chConfigCaptureMode _ _ _ => true
  | .chSetValue _ _ => true
  | .chGetValue _ => true
  | .chFlagRead _ => true
  | .chFlagClear _ => true
  | .chEnable _ => true
  | .chDisable _ => true
  | .chCaptureOverflowAndFlagRead _ => true
  | .chClearOverflowAndFlag _ => true
  | .readVector => true

end Sys2Proof
end

