-- ==== Sys2Proof/Safety.lean ====
section
/-! DEFINITION. The terms claims use: a run without refusals (R23), the invariant of the machine, the rows of the opcode
table by channel, the output unit's table (R156, R157), and a short run of instructions. -/

namespace Sys2Proof.Machine

/-- `refused == 0`: "A claim about a run takes `refused == 0` at its end as a premise" (R23). -/
def Safe (s : State) : Prop := s.refused = false

/-! ## The invariant -/

/-- In output mode 0 the output is the `OUT` bit (R155). -/
abbrev ModeZeroDrivesOutput (s : State) : Prop :=
  ∀ n, wired s.cfg n = true → (s.timer.chan n).outmod = .out → (s.timer.chan n).outSig = (s.timer.chan n).out

/-- The places of unwired channels hold what they held at launch: no register of theirs exists (R5, R41). -/
abbrev UnwiredIdle (s : State) : Prop :=
  ∀ n, wired s.cfg n = false → s.timer.chan n = Channel.initial

/-- `refused` is set exactly when a refusal is recorded (R23, R215), and the records stand in the order of the stimuli they
name, all of them before `pc`. -/
abbrev RefusalsRecorded (s : State) : Prop :=
  (s.refused = true ↔ s.refusals ≠ []) ∧ (∀ r ∈ s.refusals, r.2 < s.pc) ∧ s.refusals.Pairwise (fun a b => a.2 < b.2)

/-- The invariant that every step keeps. -/
abbrev Inv (s : State) : Prop := ModeZeroDrivesOutput s ∧ UnwiredIdle s ∧ RefusalsRecorded s

/-! ## Rows of the opcode table by channel -/

/-- The rows `RD CCTL0` .. `RD CCTL6`. -/
def cctlReads : List (Chan × Instr) :=
  [(0, .rdCctl0), (1, .rdCctl1), (2, .rdCctl2), (3, .rdCctl3), (4, .rdCctl4), (5, .rdCctl5), (6, .rdCctl6)]

/-- The rows `WR CCTL0, d` .. `WR CCTL6, d`. -/
def cctlWrites (d : Word) : List (Chan × Instr) :=
  [(0, .wrCctl0 d), (1, .wrCctl1 d), (2, .wrCctl2 d), (3, .wrCctl3 d), (4, .wrCctl4 d), (5, .wrCctl5 d),
    (6, .wrCctl6 d)]

/-- The rows `RD CCR0` .. `RD CCR6`. -/
def ccrReads : List (Chan × Instr) :=
  [(0, .rdCcr0), (1, .rdCcr1), (2, .rdCcr2), (3, .rdCcr3), (4, .rdCcr4), (5, .rdCcr5), (6, .rdCcr6)]

/-- The rows `WR CCR0, d` .. `WR CCR6, d`. -/
def ccrWrites (d : Word) : List (Chan × Instr) :=
  [(0, .wrCcr0 d), (1, .wrCcr1 d), (2, .wrCcr2 d), (3, .wrCcr3 d), (4, .wrCcr4 d), (5, .wrCcr5 d), (6, .wrCcr6 d)]

/-- The read-modify-write driver operations on `CTL` (R70 rows 3 to 6 and 9 to 11) with the data each writes, from R70's
constants. -/
def ctlModifies : List (Instr × (Word → Word)) :=
  [(.driverReset, fun v => v ||| 0x0004), (.upmode, fun v => (v &&& 0xFFCE) ||| 0x0014),
    (.continuous, fun v => (v &&& 0xFFCE) ||| 0x0024), (.stop, fun v => v &&& 0xFFCF),
    (.overflowFlagClear, fun v => v &&& 0xFFFE), (.overflowInterruptEnable, fun v => v ||| 0x0002),
    (.overflowInterruptDisable, fun v => v &&& 0xFFFD)]

/-- The read-modify-write driver operations on `CCTL[n]` (R70 rows 17 to 19 and 21) with the data each writes. -/
def cctlModifies (n : Chan) : List (Instr × (Word → Word)) :=
  [(.chFlagClear n, fun v => v &&& 0xFFFE), (.chEnable n, fun v => v ||| 0x0010),
    (.chDisable n, fun v => v &&& 0xFFEF), (.chClearOverflowAndFlag n, fun v => v &&& 0xFFFC)]

/-! ## Values the rules give -/

/-- The output signal after a tick, from the table of R156 with the match action before the top action (R157): `equn` and
`equ0` say which of the two events the tick makes, `old` is the level before. -/
def outputAfter (mode : OutputMode) (equn equ0 old : Bool) : Bool :=
  match mode, equn, equ0 with
  | .out, _, _ => old
  | .set, true, _ => true
  | .set, false, _ => old
  | .toggleReset, _, true => false
  | .toggleReset, true, false => !old
  | .toggleReset, false, false => old
  | .setReset, _, true => false
  | .setReset, true, false => true
  | .setReset, false, false => old
  | .toggle, true, _ => !old
  | .toggle, false, _ => old
  | .reset, true, _ => false
  | .reset, false, _ => old
  | .toggleSet, _, true => true
  | .toggleSet, true, false => !old
  | .toggleSet, false, false => old
  | .resetSet, _, true => true
  | .resetSet, true, false => false
  | .resetSet, false, false => old

/-- What a tick to the counter value `new` leaves of channel `n` (R150, R151, R153, R156 to R158): a wired channel in Compare
role takes its flag and `SCCI` at EQUn and its output from the table; every other channel is unchanged. -/
def channelAfterTick (s : State) (new : Word) (n : Chan) : Channel :=
  let c := s.timer.chan n
  let equn := decide (new = c.ccr)
  if wired s.cfg n = true ∧ c.cap = false then
    { c with
      ccifg := c.ccifg || equn
      scci := if equn then cciSel c else c.scci
      outSig := outputAfter c.outmod equn (decide (new = (s.timer.chan 0).ccr)) c.outSig }
  else c

/-- A source of the shared line is pending on channel `n`: wired, not channel 0, flag and enable set (R200, R206). -/
abbrev SharedPending (s : State) (n : Chan) : Prop :=
  n ≠ 0 ∧ wired s.cfg n = true ∧ (s.timer.chan n).ccifg = true ∧ (s.timer.chan n).ccie = true

/-- Whether a change of the selected level from `old` to `new` is an edge the selection triggers on (R161). -/
abbrev SelectedEdge (cap : Bool) (cm : CaptureEdge) (old new : Bool) : Prop :=
  cap = true ∧ ((cm = .rising ∧ old = false ∧ new = true) ∨ (cm = .falling ∧ old = true ∧ new = false) ∨
    (cm = .both ∧ old ≠ new))

/-- What a change of the selected level from `old` leaves of a channel (R161, R163, R165), `fv` being the free value of an
unsynchronised capture: nothing without a selected edge; the request latched when synchronised; a capture at once when
not. -/
def EdgeOutcome (fv : Word) (old : Bool) (before after : Channel) : Prop :=
  (¬ SelectedEdge before.cap before.cm old (cciSel before) → after = before) ∧
  (SelectedEdge before.cap before.cm old (cciSel before) → before.scs = true → after = { before with capReq := true }) ∧
  (SelectedEdge before.cap before.cm old (cciSel before) → before.scs = false →
    after = { before with ccr := fv, cov := before.cov || before.unread, unread := true, ccifg := true })

/-! ## Short runs -/

/-- Instructions carried out in order, stopping at the first that has no next state. -/
def runInstrs : List Instr → State → Host.Outcome State Fault Refusal
  | [], s => .next s
  | i :: is, s =>
    match exec i s with
    | .next t => runInstrs is t
    | .fault f => .fault f
    | .refused r => .refused r

/-- `k` active edges of the clock input the timer selects. -/
def sourceEdges : Nat → State → State
  | 0, s => s
  | k + 1, s => sourceEdges k (applyStim (.src s.timer.tassel) s)

end Sys2Proof.Machine
end

