-- ==== Sys2Proof/Certificates/Slice0/Obligations.lean ====
section
/-! DEFINITION. The statements for the provers. Every statement about a state holds for every configuration, every stimulus
list and every gap in it. Where a docstring says "spec decision Dn", the clause is the spec's own choice
(92_eei_decisions.md), not the source's. -/

open Sys2Proof Sys2Proof.Machine

/-! ## Encoding -/

/-- Every stimulus row, with every operand at every value its encoding admits, is one word that decodes to it. -/
def Obligations.StimulusRowsDecodeTheirWord : Prop :=
  ∀ (i : Instr) (v : Word), i.isDriverOp = false → ∃ w, encode i v = [w] ∧ decode w = .ok i

/-- A word has one meaning: whatever word decodes, encoding what it decodes to gives the word back, so no bit of a word is
dropped; and no word decodes to a driver operation. -/
def Obligations.DecodedWordEncodesBack : Prop :=
  ∀ (w : StimWord) (i : Instr) (v : Word), decode w = .ok i → encode i v = [w] ∧ i.isDriverOp = false

/-- The words of the 22 driver operations are those of R70's expansions, `v` being what the `RD` returned (spec decision
D22). R70 gives `set_expansion_divider(e)` the divisors 1 to 8; its word for any other `e` is the model's choice (log 23,
DESIGN CHOICE). -/
def Obligations.DriverOperationWords : Prop :=
  ∀ v : Word,
    (∀ source divider, encode (.configClock source divider) v =
      [0x400000#24 ||| source.code.setWidth 24 <<< 8 ||| divider.code.setWidth 24 <<< 6]) ∧
    (∀ e, encode (.setExpansionDivider e) v = [0x600000#24 ||| (BitVec.ofNat 16 (e - 1)).setWidth 24]) ∧
    (∀ p ∈ ctlModifies, encode p.1 v = [0x000000#24, 0x400000#24 ||| (p.2 v).setWidth 24]) ∧
    (∀ i ∈ [Instr.isStopped, .overflowFlagRead], encode i v = [0x000000#24]) ∧
    (∀ n : Chan,
      let cctl := BitVec.ofNat 24 (0x020000 + 0x020000 * n.val)
      let ccr := BitVec.ofNat 24 (0x120000 + 0x020000 * n.val)
      (∀ mode, encode (.chConfigOutputMode n mode) v = [0x400000#24 ||| cctl ||| mode.code.setWidth 24 <<< 5]) ∧
      (∀ edge input, encode (.chConfigCaptureMode n edge input) v =
        [0x400900#24 ||| cctl ||| edge.code.setWidth 24 <<< 14 ||| input.code.setWidth 24 <<< 12]) ∧
      (∀ x, encode (.chSetValue n x) v = [0x400000#24 ||| ccr ||| x.setWidth 24]) ∧
      encode (.chGetValue n) v = [ccr] ∧
      (∀ i ∈ [Instr.chFlagRead n, .chCaptureOverflowAndFlagRead n], encode i v = [cctl]) ∧
      (∀ p ∈ cctlModifies n, encode p.1 v = [cctl, 0x400000#24 ||| cctl ||| (p.2 v).setWidth 24])) ∧
    encode .readVector v = [0x2E0000#24]

/-- The decoder rejects exactly the words R72 lists as `RF2`, `RF3`, `RF5`, and as `RF6` but for the channel check, each for
its own reason and in R80's order (spec decisions D11, D12, D13). `PIN` and `SYNC` with `n >= N_CH`, which R62, R72 and R215
list under `RF6` and have the decoder raise, decode here and are refused `RF6` when carried out
(`Obligations.EventOnUnwiredChannelRefused`): the place of that check is the model's choice (log 22, DEDUCED). -/
def Obligations.RejectedWordsAreTheListedOnes : Prop :=
  ∀ (w : StimWord) (e : Reject),
    let kind := w.toNat / 0x400000
    let off := w.toNat / 0x10000 % 64
    let data := w.toNat % 0x10000
    let bus := kind = 1 ∨ (kind = 0 ∧ data = 0)
    decode w = .error e ↔
      (kind = 0 ∧ data ≠ 0 ∧ e = .readDataNonzero w) ∨
      (bus ∧ off % 2 = 1 ∧ e = .oddOffset (BitVec.ofNat 6 off)) ∨
      (bus ∧ off % 2 = 0 ∧ 0x20 < off ∧ off ≠ 0x2E ∧ e = .unmapped (BitVec.ofNat 6 off)) ∨
      (kind = 2 ∧
        ¬ ((off = 0 ∧ data = 0) ∨ (off = 1 ∧ data < 4) ∨ (off = 2 ∧ data < 128 ∧ data / 4 % 4 = 0) ∨
          (off = 3 ∧ data < 8) ∨ (off = 4 ∧ data = 0)) ∧
        e = .badEvent w)

/-- Words written out from the spec's encodings decode to the instructions they stand for. -/
def Obligations.WordsFromTheSpecDecode : Prop :=
  decode 0x000000 = .ok .rdCtl ∧ decode 0x400180 = .ok (.wrCtl 0x0180) ∧ decode 0x0E0000 = .ok .rdCctl6 ∧
  decode 0x464900 = .ok (.wrCctl2 0x4900) ∧ decode 0x5203E8 = .ok (.wrCcr0 0x03E8) ∧ decode 0x2E0000 = .ok .rdIv ∧
  decode 0x600007 = .ok (.wrEx0 0x0007) ∧ decode 0x800000 = .ok .reset ∧
  decode 0x810003 = .ok (.src .internalLowPower) ∧ decode 0x820023 = .ok (.pin 2 .b true) ∧
  decode 0x830006 = .ok (.sync 6) ∧ decode 0x840000 = .ok .ack0

/-! ## Steps -/

/-- A step runs the instruction that the word at `pc` decodes to; a driver operation is in no word (R70). -/
def Obligations.StepRunsDecodedInstruction : Prop :=
  ∀ (s : State) (w : StimWord) (i : Instr),
    s.stimuli[s.pc]? = some w → decode w = .ok i → i.wellFormed = true ∧ step s = exec i s

/-- A step at a word the decoder rejects is the refusal of R215, with the word's code and value (spec decision D31): the
instance is unchanged, `refused` is set, `pc` moves on, the run continues. At the end of the stimulus list the run ends
(R12, spec decision D30); that it ends in the fault `endOfStimuli` is the model's choice (log 2). -/
def Obligations.StepRefusesRejectedWordAndEndsAtListEnd : Prop :=
  (∀ (s : State) (w : StimWord) (e : Reject), s.stimuli[s.pc]? = some w → decode w = .error e →
    ∃ cause, step s = .next { s with refused := true, pc := s.pc + 1, rdata := none,
                                     refusals := s.refusals ++ [(cause, s.pc)] } ∧
      (e = .readDataNonzero w → cause = .rf5 w) ∧ (e = .badEvent w → cause = .rf6 w) ∧
      (∀ off, e = .oddOffset off → cause = .rf2 off) ∧ (∀ off, e = .unmapped off → cause = .rf3 off)) ∧
  (∀ s : State, s.stimuli.length ≤ s.pc → step s = .fault .endOfStimuli)

/-! ## Bus reads -/

/-- R81: `RD CTL`, the word 0x000000, returns the assembled register, bits 15:10, 3 and 2 being 0; no side effect, no flag,
never refused. -/
def Obligations.ReadCtlReturnsRegister : Prop :=
  decode 0x000000 = .ok .rdCtl ∧ ∀ s : State, ∃ v : Word,
    exec .rdCtl s = .next { s with pc := s.pc + 1, rdata := some v } ∧
    v.toNat = 256 * s.timer.tassel.code.toNat + 64 * s.timer.id.code.toNat + 16 * s.timer.mc.code.toNat +
      2 * s.timer.taie.toNat + s.timer.taifg.toNat

/-- R84: `RD CCTLn`, the word `(0x02 + 2n) << 16`, returns the assembled register, bit 9 being 0 and bit 3 the live level of the selected input; no side
effect; on a channel that is not wired it is refused `RF4`. -/
def Obligations.ReadCctlReturnsRegister : Prop :=
  ∀ p ∈ cctlReads, decode (BitVec.ofNat 24 ((0x02 + 2 * p.1.val) * 0x10000)) = .ok p.2 ∧ ∀ s : State,
    (wired s.cfg p.1 = true → ∃ v : Word,
      exec p.2 s = .next { s with pc := s.pc + 1, rdata := some v } ∧
      let c := s.timer.chan p.1
      let level := match c.ccis with
        | .lineA => c.cciA
        | .lineB => c.cciB
        | .low => false
        | .high => true
      v.toNat = 16384 * c.cm.code.toNat + 4096 * c.ccis.code.toNat + 2048 * c.scs.toNat + 1024 * c.scci.toNat +
        256 * c.cap.toNat + 32 * c.outmod.code.toNat + 16 * c.ccie.toNat + 8 * level.toNat + 4 * c.out.toNat +
        2 * c.cov.toNat + c.ccifg.toNat) ∧
    (wired s.cfg p.1 = false →
      exec p.2 s = .next { s with refused := true, pc := s.pc + 1, rdata := none,
                                  refusals := s.refusals ++ [(.rf4 p.1, s.pc)] })

/-- R91: `RD CCRn`, the word `(0x12 + 2n) << 16`, returns `CCR[n]` and clears `unread[n]`, in either role; it writes no flag; on a channel that is not
wired it is refused `RF4`. The next capture then does not set `COV`. -/
def Obligations.ReadCcrReturnsAndMarksRead : Prop :=
  ∀ p ∈ ccrReads, decode (BitVec.ofNat 24 ((0x12 + 2 * p.1.val) * 0x10000)) = .ok p.2 ∧ ∀ s : State,
    (wired s.cfg p.1 = true → ∃ t,
      exec p.2 s = .next t ∧
      t = { s with timer := s.timer.setChan p.1 { s.timer.chan p.1 with unread := false },
                   pc := s.pc + 1, rdata := some (s.timer.chan p.1).ccr } ∧
      (∀ m, m ≠ p.1 → t.timer.chan m = s.timer.chan m) ∧
      (∀ v, (capture v (t.timer.chan p.1)).cov = (s.timer.chan p.1).cov)) ∧
    (wired s.cfg p.1 = false →
      exec p.2 s = .next { s with refused := true, pc := s.pc + 1, rdata := none,
                                  refusals := s.refusals ++ [(.rf4 p.1, s.pc)] })

/-- `RD R` returns the counter and `RD EX0` the expansion divider code, neither with a side effect (spec decisions D26,
D2). -/
def Obligations.ReadCounterAndExpansion : Prop :=
  ∀ s : State,
    exec .rdR s = .next { s with pc := s.pc + 1, rdata := some s.timer.tar } ∧
    ∃ v : Word, exec .rdEx0 s = .next { s with pc := s.pc + 1, rdata := some v } ∧ v.toNat = s.timer.taidex.toNat

/-- `RD IV` (R92), the word 0x2E0000, returns the value of the vector register, then acknowledges that one source: the lowest pending channel
other than 0 (code `2n`), else the pending overflow (code 14), else nothing (code 0). The one flag named is cleared and
nothing else changes. The layout of `IV`, the codes and the order, and that only enabled flags count are the spec's own
decisions (R69 D5, R204 D7, R203 D8, log 20). -/
def Obligations.ReadIvReturnsAndAcknowledges : Prop :=
  decode 0x2E0000 = .ok .rdIv ∧ ∀ s : State,
    (∀ n, SharedPending s n → (∀ m, m < n → ¬ SharedPending s m) →
      exec .rdIv s = .next { s with timer := s.timer.setChan n { s.timer.chan n with ccifg := false },
                                    pc := s.pc + 1, rdata := some (BitVec.ofNat 16 (2 * n.val)) }) ∧
    ((∀ m, ¬ SharedPending s m) → s.timer.taifg = true → s.timer.taie = true →
      exec .rdIv s = .next { s with timer := { s.timer with taifg := false }, pc := s.pc + 1, rdata := some 14 }) ∧
    ((∀ m, ¬ SharedPending s m) → ¬ (s.timer.taifg = true ∧ s.timer.taie = true) →
      exec .rdIv s = .next { s with pc := s.pc + 1, rdata := some 0 })

/-! ## Bus writes -/

/-- `WR CTL, d` with a run mode that has a meaning stores its fields in one step; with bit 2 set it also clears the counter
and reloads the divider with `N() - 1` for the `ID` just written; everything else is kept. (That a written 1 sets the flag
is spec decision D21, the reload D15.) -/
def Obligations.WriteCtlStoresFields : Prop :=
  ∀ (s : State) (d : Word), d.toNat / 16 % 4 ≠ 3 → ∃ t : Timer,
    exec (.wrCtl d) s = .next { s with timer := t, pc := s.pc + 1, rdata := none } ∧
    t.tassel.code.toNat = d.toNat / 256 % 4 ∧ t.id.code.toNat = d.toNat / 64 % 4 ∧
    t.mc.code.toNat = d.toNat / 16 % 4 ∧ t.taie = decide (d.toNat / 2 % 2 = 1) ∧ t.taifg = decide (d.toNat % 2 = 1) ∧
    (d.toNat / 4 % 2 = 1 →
      t.tar = 0 ∧ t.presc.toNat + 1 = 2 ^ (d.toNat / 64 % 4) * (s.timer.taidex.toNat + 1)) ∧
    (d.toNat / 4 % 2 = 0 → t.tar = s.timer.tar ∧ t.presc = s.timer.presc) ∧
    t.taidex = s.timer.taidex ∧ t.chans = s.timer.chans

/-- `WR CTL, d` with run-mode code 3 is refused `RF7`, the whole write dropped (spec decision D14). -/
def Obligations.WriteCtlModeThreeRefused : Prop :=
  ∀ (s : State) (d : Word), d.toNat / 16 % 4 = 3 →
    exec (.wrCtl d) s = .next { s with refused := true, pc := s.pc + 1, rdata := none,
                                       refusals := s.refusals ++ [(.rf7 d, s.pc)] }

/-- `WR CCTLn, d` on a wired channel: the fields are stored, `SCCI`, the lines, the other channels and the rest of the
instance are kept, output mode 0 drives the output from `OUT`; then a change of the selected level made by the write is
an edge like any other, judged with the stored `CAP`, `CM` and `SCS` (spec decisions D18, D19, D21; an unsynchronised
capture stores a free value, D20). On a channel that is not wired it is refused `RF4` (D13). -/
def Obligations.WriteCctlStoresFieldsAndDetectsEdge : Prop :=
  ∀ (s : State) (d : Word), ∀ p ∈ cctlWrites d,
    (wired s.cfg p.1 = true → ∃ stored after : Channel,
      exec p.2 s = .next { s with timer := s.timer.setChan p.1 after, pc := s.pc + 1, rdata := none,
                                  draws := s.draws + 1 } ∧
      stored.cm.code.toNat = d.toNat / 16384 ∧ stored.ccis.code.toNat = d.toNat / 4096 % 4 ∧
      stored.scs = decide (d.toNat / 2048 % 2 = 1) ∧ stored.scci = (s.timer.chan p.1).scci ∧
      stored.cap = decide (d.toNat / 256 % 2 = 1) ∧ stored.outmod.code.toNat = d.toNat / 32 % 8 ∧
      stored.ccie = decide (d.toNat / 16 % 2 = 1) ∧ stored.out = decide (d.toNat / 4 % 2 = 1) ∧
      stored.cov = decide (d.toNat / 2 % 2 = 1) ∧ stored.ccifg = decide (d.toNat % 2 = 1) ∧
      stored.ccr = (s.timer.chan p.1).ccr ∧
      stored.outSig = (if d.toNat / 32 % 8 = 0 then decide (d.toNat / 4 % 2 = 1) else (s.timer.chan p.1).outSig) ∧
      stored.cciA = (s.timer.chan p.1).cciA ∧ stored.cciB = (s.timer.chan p.1).cciB ∧
      stored.capReq = (s.timer.chan p.1).capReq ∧ stored.unread = (s.timer.chan p.1).unread ∧
      EdgeOutcome (Config.draw s.draws) (cciSel (s.timer.chan p.1)) stored after) ∧
    (wired s.cfg p.1 = false →
      exec p.2 s = .next { s with refused := true, pc := s.pc + 1, rdata := none,
                                  refusals := s.refusals ++ [(.rf4 p.1, s.pc)] })

/-- R87: `WR EX0, d`, the word `0x600000 | d`, stores `d[2:0]` in `TAIDEX`; nothing else changes: not `presc`, not `TAR`, not
`CTL`; the divider chain's next reload is with the new divisor, `d[2:0] + 1`. -/
def Obligations.WriteExpansionStoresThreeBits : Prop :=
  ∀ (s : State) (d : Word), decode (0x600000#24 ||| d.setWidth 24) = .ok (.wrEx0 d) ∧
    ∃ x : BitVec 3, x.toNat = d.toNat % 8 ∧
      exec (.wrEx0 d) s = .next { s with timer := { s.timer with taidex := x }, pc := s.pc + 1, rdata := none } ∧
      (prescReload { s.timer with taidex := x }).toNat + 1 = 2 ^ s.timer.id.code.toNat * (d.toNat % 8 + 1)

/-- `WR CCRn, d` (R90), the word `0x400000 | (0x12 + 2n) << 16 | d`, stores `d` in `CCR[n]`, in either role; nothing else
changes and no comparator is evaluated; the next tick compares with the new value; on a channel that is not wired it is
refused `RF4`. That the next tick sets the flag at a match, and only in Compare role, are the spec's own decisions (R151 D17,
R158 D18, log 10). -/
def Obligations.WriteCcrStoresValue : Prop :=
  ∀ (s : State) (d : Word), ∀ p ∈ ccrWrites d,
    decode (0x400000#24 ||| BitVec.ofNat 24 ((0x12 + 2 * p.1.val) * 0x10000) ||| d.setWidth 24) = .ok p.2 ∧
    (wired s.cfg p.1 = true → ∃ t : Timer,
      exec p.2 s = .next { s with timer := t, pc := s.pc + 1, rdata := none } ∧
      t.chan p.1 = { s.timer.chan p.1 with ccr := d } ∧ (∀ m, m ≠ p.1 → t.chan m = s.timer.chan m) ∧
      t = { s.timer with chans := t.chans } ∧
      (∀ new : Word, ((compareStep s.cfg new t).chan p.1).ccifg =
        ((s.timer.chan p.1).ccifg || (!(s.timer.chan p.1).cap && decide (new = d))))) ∧
    (wired s.cfg p.1 = false →
      exec p.2 s = .next { s with refused := true, pc := s.pc + 1, rdata := none,
                                  refusals := s.refusals ++ [(.rf4 p.1, s.pc)] })

/-- `WR R, d` sets the counter and nothing else, whatever `d` equals; the next tick in Up mode past the top wraps (spec
decisions D26, D16). -/
def Obligations.WriteCounterSetsCounterOnly : Prop :=
  ∀ (s : State) (d : Word),
    exec (.wrR d) s = .next { s with timer := { s.timer with tar := d }, pc := s.pc + 1, rdata := none } ∧
    (s.timer.mc = .up → (s.timer.chan 0).ccr ≠ 0 → (s.timer.chan 0).ccr < d →
      (tick s.cfg { s.timer with tar := d }).tar = 0 ∧ (tick s.cfg { s.timer with tar := d }).taifg = true)

/-- `WR IV, d` ignores the data and acknowledges as a read does (spec decision D9): the states after the two differ only in
what is returned. -/
def Obligations.WriteIvAcknowledgesAsRead : Prop :=
  ∀ (s : State) (d : Word), ∃ t, exec .rdIv s = .next t ∧ exec (.wrIv d) s = .next { t with rdata := none }

/-! ## Events -/

/-- `RESET` gives every register field and every hidden bit of the wired channels and of the timer its reset value and keeps
the input levels, `refused`, the record of refusals and the configuration (spec decisions D10, D33); after it both request
lines are low and the mode is Stopped. -/
def Obligations.ResetEventClearsAllButInputs : Prop :=
  ∀ s : State, ∃ t : Timer,
    exec .reset s = .next { s with timer := t, pc := s.pc + 1, rdata := none } ∧
    t = { tar := 0, tassel := .external, id := .div1, mc := .stopped, taie := false, taifg := false, taidex := 0,
          presc := 0, chans := t.chans } ∧
    (∀ n, wired s.cfg n = true → t.chan n =
      { cm := .none, ccis := .lineA, scs := false, scci := false, cap := false, outmod := .out, ccie := false,
        out := false, cov := false, ccifg := false, ccr := 0, outSig := false, cciA := (s.timer.chan n).cciA,
        cciB := (s.timer.chan n).cciB, capReq := false, unread := false }) ∧
    (∀ n, wired s.cfg n = false → t.chan n = s.timer.chan n) ∧
    irqCcr0 t = false ∧ irqIv s.cfg t = false

/-- An edge of a source that is not selected, or any edge while Stopped, changes nothing of the instance (spec decision
D15). -/
def Obligations.SourceEdgeIgnoredWhenStoppedOrUnselected : Prop :=
  ∀ (s : State) (source : ClockSource), s.timer.mc = .stopped ∨ source ≠ s.timer.tassel →
    exec (.src source) s = .next { s with pc := s.pc + 1, rdata := none }

/-- An edge of the selected source of a running timer with `presc` not 0 counts the divider down by 1 and does nothing else
(spec decision D15): in particular new divisors are not used before the reload. -/
def Obligations.SourceEdgeCountsDividerDown : Prop :=
  ∀ (s : State) (p : BitVec 6), s.timer.mc ≠ .stopped → s.timer.presc.toNat = p.toNat + 1 →
    exec (.src s.timer.tassel) s =
      .next { s with timer := { s.timer with presc := p }, pc := s.pc + 1, rdata := none }

/-- A tick boundary in Up mode: the divider is reloaded with `N() - 1`; with a top of 0 nothing else happens; else the
counter goes to 0 with the overflow flag from the top or above, and up by 1 below the top, and every channel reacts to the
new value (spec decisions D15 to D18). -/
def Obligations.UpModeTickBoundary : Prop :=
  ∀ s : State, s.timer.mc = .up → s.timer.presc = 0 → ∃ t : Timer,
    exec (.src s.timer.tassel) s = .next { s with timer := t, pc := s.pc + 1, rdata := none } ∧
    t.presc.toNat + 1 = 2 ^ s.timer.id.code.toNat * (s.timer.taidex.toNat + 1) ∧
    t = { s.timer with presc := t.presc, tar := t.tar, taifg := t.taifg, chans := t.chans } ∧
    let top := (s.timer.chan 0).ccr.toNat
    (top = 0 → t.tar = s.timer.tar ∧ t.taifg = s.timer.taifg ∧ t.chans = s.timer.chans) ∧
    (top ≠ 0 → top ≤ s.timer.tar.toNat → t.tar = 0 ∧ t.taifg = true ∧ ∀ n, t.chan n = channelAfterTick s 0 n) ∧
    (top ≠ 0 → s.timer.tar.toNat < top →
      t.tar.toNat = s.timer.tar.toNat + 1 ∧ t.taifg = s.timer.taifg ∧ ∀ n, t.chan n = channelAfterTick s t.tar n)

/-- A tick boundary in Continuous mode: the divider is reloaded, the counter goes up by 1 modulo 65536 whatever `CCR[0]`
holds, the overflow flag is set on the wrap, and every channel reacts to the new value (spec decisions D15 to D18). -/
def Obligations.ContinuousModeTickBoundary : Prop :=
  ∀ s : State, s.timer.mc = .continuous → s.timer.presc = 0 → ∃ t : Timer,
    exec (.src s.timer.tassel) s = .next { s with timer := t, pc := s.pc + 1, rdata := none } ∧
    t.presc.toNat + 1 = 2 ^ s.timer.id.code.toNat * (s.timer.taidex.toNat + 1) ∧
    t = { s.timer with presc := t.presc, tar := t.tar, taifg := t.taifg, chans := t.chans } ∧
    t.tar.toNat = (s.timer.tar.toNat + 1) % 65536 ∧
    t.taifg = (s.timer.taifg || decide (s.timer.tar.toNat = 65535)) ∧
    ∀ n, t.chan n = channelAfterTick s t.tar n

/-- R129: in Continuous mode the counter counts `.., 0xFFFE, 0xFFFF, 0x0000, 0x0001, ..` with no influence of `CCR[0]`; the
tick from `0xFFFF` to 0 sets `TAIFG`; one period is 65536 ticks. -/
def Obligations.ContinuousCountsModulo65536 : Prop :=
  ∀ (cfg : Cfg) (t : Timer) (k : Nat), t.mc = .continuous →
    ((tick cfg)^[k] t).mc = .continuous ∧
    ((tick cfg)^[k] t).tar.toNat = (t.tar.toNat + k) % 65536 ∧
    ((tick cfg)^[k] t).taifg = (t.taifg || decide (65536 ≤ t.tar.toNat + k)) ∧
    ((tick cfg)^[65536] t).tar = t.tar

/-- In Up mode with top `T >= 1`, from counter 0 with a freshly reloaded divider, `(T + 1) * N()` edges of the selected
source bring the counter back to 0 with the overflow flag set and the divider reloaded again, and `j * N()` edges, for
`j` up to `T`, bring it to `j` (the spec derives the period in 41_clock.md section 2; it rests on D15 and D16). -/
def Obligations.UpModePeriodInSourceEdges : Prop :=
  ∀ s : State, s.timer.mc = .up → (s.timer.chan 0).ccr ≠ 0 → s.timer.tar = 0 →
    s.timer.presc.toNat + 1 = 2 ^ s.timer.id.code.toNat * (s.timer.taidex.toNat + 1) →
    let edges := 2 ^ s.timer.id.code.toNat * (s.timer.taidex.toNat + 1)
    let top := (s.timer.chan 0).ccr.toNat
    (∀ j, j ≤ top → (sourceEdges (j * edges) s).timer.tar.toNat = j) ∧
    (sourceEdges ((top + 1) * edges) s).timer.tar = 0 ∧
    (sourceEdges ((top + 1) * edges) s).timer.taifg = true ∧
    (sourceEdges ((top + 1) * edges) s).timer.presc = s.timer.presc ∧
    (sourceEdges ((top + 1) * edges) s).pc = s.pc + (top + 1) * edges

/-- `PIN n.L=v` on a wired channel: the line takes the level, nothing else of the instance changes but what an edge of the
selected level does: a selected edge in Capture role latches a request when synchronised and captures a free value at
once when not (spec decisions D19, D20). -/
def Obligations.PinSetsLineAndDetectsEdge : Prop :=
  ∀ (s : State) (n : BitVec 3) (k : Chan) (line : Line) (level : Bool), n.toNat = k.val → wired s.cfg k = true →
    ∃ moved after : Channel,
      exec (.pin n line level) s = .next { s with timer := s.timer.setChan k after, pc := s.pc + 1, rdata := none,
                                                  draws := s.draws + 1 } ∧
      moved = (if line = .a then { s.timer.chan k with cciA := level } else { s.timer.chan k with cciB := level }) ∧
      EdgeOutcome (Config.draw s.draws) (cciSel (s.timer.chan k)) moved after

/-- R161: the edge detector watches the selected input and acts only in Capture role and only on the edges `CM` selects: a
stimulus that does not change the selected level makes no edge; with `CM` none no edge triggers, with rising, falling, both
the edges named. -/
def Obligations.EdgeDetectorActsOnSelectedEdges : Prop :=
  ∀ (fv : Word) (c : Channel) (old new : Bool),
    detectChange fv (cciSel c) c = c ∧
    (cciSel c = new → old ≠ new → detectChange fv old c = edgeDetect fv old new c) ∧
    (old ≠ new →
    (c.cap = false → edgeDetect fv old new c = c) ∧
    (c.cap = true → c.cm = .none → edgeDetect fv old new c = c) ∧
    (c.cap = true → c.cm = .rising → edgeDetect fv old new c = if new = true then trigger fv c else c) ∧
    (c.cap = true → c.cm = .falling → edgeDetect fv old new c = if new = true then c else trigger fv c) ∧
    (c.cap = true → c.cm = .both → edgeDetect fv old new c = trigger fv c))

/-- R165: a capture stores the value, sets `COV` exactly when the previous capture was not read, and sets `unread` and
`CCIFG`. A second capture before a read holds the second value and sets `COV`. -/
def Obligations.CaptureStoresValueAndLatchesOverflow : Prop :=
  ∀ (v w : Word) (c : Channel),
    capture v c = { c with ccr := v, cov := if c.unread = true then true else c.cov, unread := true, ccifg := true } ∧
    (capture w (capture v c)).ccr = w ∧ (capture w (capture v c)).cov = true ∧
    (capture w (capture v c)).ccifg = true ∧
    (c.unread = false → (capture v c).cov = c.cov)

/-- `SYNC n` on a wired channel with a latched request takes the request and, in Capture role, captures the counter as it
stands, in any run mode; in Compare role the request is dropped; with nothing latched it does nothing (spec decision
D19). -/
def Obligations.SyncCapturesCounter : Prop :=
  ∀ (s : State) (n : BitVec 3) (k : Chan), n.toNat = k.val → wired s.cfg k = true →
    let c := s.timer.chan k
    (c.capReq = false → exec (.sync n) s = .next { s with pc := s.pc + 1, rdata := none }) ∧
    (c.capReq = true → c.cap = false →
      exec (.sync n) s = .next { s with timer := s.timer.setChan k { c with capReq := false }, pc := s.pc + 1,
                                        rdata := none }) ∧
    (c.capReq = true → c.cap = true →
      exec (.sync n) s = .next { s with
        timer := s.timer.setChan k { c with capReq := false, ccr := s.timer.tar, cov := c.cov || c.unread,
                                            unread := true, ccifg := true },
        pc := s.pc + 1, rdata := none })

/-- A `PIN` or `SYNC` on a channel that is not wired is refused `RF6` with its word; so is one on channel number 7, which no
instance has (spec decisions D11, D31). -/
def Obligations.EventOnUnwiredChannelRefused : Prop :=
  ∀ (s : State) (n : BitVec 3), s.cfg.lastCh.val < n.toNat →
    (∀ line level, ∃ w : StimWord,
      w.toNat = 0x820000 + 16 * n.toNat + (if line = .b then 2 else 0) + (if level = true then 1 else 0) ∧
      exec (.pin n line level) s = .next { s with refused := true, pc := s.pc + 1, rdata := none,
                                                  refusals := s.refusals ++ [(.rf6 w, s.pc)] }) ∧
    ∃ w : StimWord, w.toNat = 0x830000 + n.toNat ∧
      exec (.sync n) s = .next { s with refused := true, pc := s.pc + 1, rdata := none,
                                        refusals := s.refusals ++ [(.rf6 w, s.pc)] }

/-- `ACK0` clears channel 0's flag, pending or not, and nothing else; the channel-0 request line is low after it (spec
decision D24). -/
def Obligations.Ack0ClearsChannelZeroFlag : Prop :=
  ∀ s : State, ∃ t : Timer,
    exec .ack0 s = .next { s with timer := t, pc := s.pc + 1, rdata := none } ∧
    t.chan 0 = { s.timer.chan 0 with ccifg := false } ∧ (∀ n, n ≠ 0 → t.chan n = s.timer.chan n) ∧
    t = { s.timer with chans := t.chans } ∧ irqCcr0 t = false

/-- A word of the reserved kind is refused `RF1` with the word: the instance is unchanged (spec decision D31). -/
def Obligations.ReservedKindRefused : Prop :=
  ∀ (s : State) (payload : BitVec 22), ∃ w : StimWord, w.toNat = 0xC00000 + payload.toNat ∧
    exec (.reservedKind payload) s = .next { s with refused := true, pc := s.pc + 1, rdata := none,
                                                    refusals := s.refusals ++ [(.rf1 w, s.pc)] }

/-! ## Driver operations -/

/-- R114: `config_clock(source, divider)`, one write of `(source << 8) | (divider << 6)`, stores the source and the divider, stops the timer, clears `TAIE` and `TAIFG`, and
keeps the counter and the divider count; no clear pulse, no other change. -/
def Obligations.ConfigClockStopsAndSelects : Prop :=
  ∀ (s : State) (source : ClockSource) (divider : PrimaryDivider),
    (∀ v, (Instr.configClock source divider).stims v =
      [.wr .ctl (source.code.setWidth 16 <<< 8 ||| divider.code.setWidth 16 <<< 6)]) ∧
    exec (.configClock source divider) s = .next { s with
      timer := { s.timer with tassel := source, id := divider, mc := .stopped, taie := false, taifg := false },
      pc := s.pc + 1, rdata := none, result := none }

/-- R115: `set_expansion_divider(e)` for a divisor 1..8, one write of `e - 1`, stores `e - 1` in `TAIDEX`, nothing else, in
any run mode; the divider chain's next reload is with the divisor `e`. -/
def Obligations.SetExpansionDividerStoresDivisor : Prop :=
  ∀ (s : State) (e : Nat), 1 ≤ e → e ≤ 8 → ∃ x : BitVec 3, x.toNat + 1 = e ∧
    (∀ v, (Instr.setExpansionDivider e).stims v = [.wr .ex0 (BitVec.ofNat 16 (e - 1))]) ∧
    exec (.setExpansionDivider e) s = .next { s with
      timer := { s.timer with taidex := x }, pc := s.pc + 1, rdata := none, result := none } ∧
    (prescReload { s.timer with taidex := x }).toNat + 1 = 2 ^ s.timer.id.code.toNat * e

/-- R136, R137: each one read of `CTL`, `is_stopped()` answers whether the mode field is Stopped, `overflow_flag_read()` whether `TAIFG` is set, both
in any mode and without a side effect. -/
def Obligations.TimerQueriesReadWithoutSideEffect : Prop :=
  (∀ i ∈ [Instr.isStopped, .overflowFlagRead], ∀ v, i.stims v = [.rd .ctl]) ∧ ∀ s : State, ∃ v : Word,
    exec .isStopped s = .next { s with pc := s.pc + 1, rdata := some v,
                                       result := some (.truth (decide (s.timer.mc = .stopped))) } ∧
    exec .overflowFlagRead s = .next { s with pc := s.pc + 1, rdata := some v,
                                              result := some (.truth s.timer.taifg) }

/-- R175, R179: each one read of `CCTLn`, `flag_read()` answers `CCIFG`, `capture_overflow_and_flag_read()` the pair `(COV, CCIFG)` from one state; no
side effect; on a channel that is not wired the read is refused `RF4`. -/
def Obligations.ChannelQueriesReadWithoutSideEffect : Prop :=
  ∀ (s : State) (n : Chan),
    (∀ i ∈ [Instr.chFlagRead n, .chCaptureOverflowAndFlagRead n], ∀ v, i.stims v = [.rd (.cctl n)]) ∧
    (wired s.cfg n = true → ∃ v : Word,
      exec (.chFlagRead n) s = .next { s with pc := s.pc + 1, rdata := some v,
                                              result := some (.truth (s.timer.chan n).ccifg) } ∧
      exec (.chCaptureOverflowAndFlagRead n) s = .next { s with
        pc := s.pc + 1, rdata := some v,
        result := some (.pair (s.timer.chan n).cov (s.timer.chan n).ccifg) }) ∧
    (wired s.cfg n = false → ∀ i ∈ [Instr.chFlagRead n, .chCaptureOverflowAndFlagRead n],
      exec i s = .next { s with refused := true, pc := s.pc + 1, rdata := none, result := none,
                                refusals := s.refusals ++ [(.rf4 n, s.pc)] })

/-- R133, R134: `upmode()` and `continuous()`, a read of `CTL` and one write, whatever stimuli `g` fall between the two: the
write clears the counter, reloads the divider with `N() - 1`, clears `TAIFG` and sets the mode; source, divider and `TAIE`
are those the read returned. Immediately after, `overflow_flag_read()` returns false and `is_stopped()` returns false. -/
def Obligations.ModeEntryClearsAndStarts : Prop :=
  (∀ v, (Instr.upmode).stims v = [.rd .ctl, .wr .ctl ((v &&& 0xFFCE) ||| 0x0014)]) ∧
  (∀ v, (Instr.continuous).stims v = [.rd .ctl, .wr .ctl ((v &&& 0xFFCE) ||| 0x0024)]) ∧
  ∀ s : State, ∀ p ∈ [(Instr.upmode, RunMode.up), (.continuous, .continuous)],
    ∃ (v : Word) (x : BitVec 6) (t : State),
      let g := fillGap { s with pc := s.pc + 1, rdata := some v }
      v.toNat = 256 * s.timer.tassel.code.toNat + 64 * s.timer.id.code.toNat + 16 * s.timer.mc.code.toNat +
        2 * s.timer.taie.toNat + s.timer.taifg.toNat ∧
      x.toNat + 1 = 2 ^ s.timer.id.code.toNat * (g.timer.taidex.toNat + 1) ∧
      exec p.1 s = .next t ∧
      t = { g with
        timer := { g.timer with tar := 0, presc := x, taifg := false, mc := p.2, tassel := s.timer.tassel,
                                id := s.timer.id, taie := s.timer.taie },
        pc := g.pc + 1, rdata := none, result := none } ∧
      (∃ u, exec .overflowFlagRead t = .next u ∧ u.result = some (.truth false)) ∧
      (∃ u, exec .isStopped t = .next u ∧ u.result = some (.truth false))

/-- R132, R135: `reset()` and `stop()`, each a read of `CTL` and one write: `reset()` clears the counter and reloads the
divider with `N() - 1` in any mode and writes every stored field of `CTL` back as read; `stop()` stops, keeps the counter
and the divider count, and writes the other fields back as read: a flag the hardware sets in between is lost. `stop()`
followed by `is_stopped()` returns true. -/
def Obligations.DriverResetAndStop : Prop :=
  (∀ v, (Instr.driverReset).stims v = [.rd .ctl, .wr .ctl (v ||| 0x0004)]) ∧
  (∀ v, (Instr.stop).stims v = [.rd .ctl, .wr .ctl (v &&& 0xFFCF)]) ∧
  ∀ s : State, ∃ v : Word,
    let g := fillGap { s with pc := s.pc + 1, rdata := some v }
    v.toNat = 256 * s.timer.tassel.code.toNat + 64 * s.timer.id.code.toNat + 16 * s.timer.mc.code.toNat +
      2 * s.timer.taie.toNat + s.timer.taifg.toNat ∧
    (∃ x : BitVec 6, x.toNat + 1 = 2 ^ s.timer.id.code.toNat * (g.timer.taidex.toNat + 1) ∧
      exec .driverReset s = .next { g with
        timer := { g.timer with tar := 0, presc := x, tassel := s.timer.tassel, id := s.timer.id, mc := s.timer.mc,
                                taie := s.timer.taie, taifg := s.timer.taifg },
        pc := g.pc + 1, rdata := none, result := none }) ∧
    ∃ t, exec .stop s = .next t ∧
      t = { g with
        timer := { g.timer with tassel := s.timer.tassel, id := s.timer.id, mc := .stopped, taie := s.timer.taie,
                                taifg := s.timer.taifg },
        pc := g.pc + 1, rdata := none, result := none } ∧
      ∃ u, exec .isStopped t = .next u ∧ u.result = some (.truth true)

/-- R138, R139, R140: each a read of `CTL` and one write, `overflow_flag_clear()` clears `TAIFG`,
`overflow_interrupt_enable()` sets `TAIE`, `overflow_interrupt_disable()` clears it; every other stored field of `CTL` is
written back as read, without a clear pulse, so an overflow between the read and the write is lost. The overflow is then a
pending source exactly if flag and enable as written are set; with the enable clear the flag is still set by an overflow
and is still read. -/
def Obligations.OverflowFlagOperations : Prop :=
  (∀ v, (Instr.overflowFlagClear).stims v = [.rd .ctl, .wr .ctl (v &&& 0xFFFE)]) ∧
  (∀ v, (Instr.overflowInterruptEnable).stims v = [.rd .ctl, .wr .ctl (v ||| 0x0002)]) ∧
  (∀ v, (Instr.overflowInterruptDisable).stims v = [.rd .ctl, .wr .ctl (v &&& 0xFFFD)]) ∧
  (∀ (cfg : Cfg) (new : Word) (t : Timer), (countTo cfg new true t).taifg = true ∧ (countTo cfg new true t).taie = t.taie) ∧
  ∀ s : State, ∀ p ∈ [(Instr.overflowFlagClear, s.timer.taie, false), (.overflowInterruptEnable, true, s.timer.taifg),
      (.overflowInterruptDisable, false, s.timer.taifg)],
    ∃ (v : Word) (t : State),
      let g := fillGap { s with pc := s.pc + 1, rdata := some v }
      v.toNat = 256 * s.timer.tassel.code.toNat + 64 * s.timer.id.code.toNat + 16 * s.timer.mc.code.toNat +
        2 * s.timer.taie.toNat + s.timer.taifg.toNat ∧
      exec p.1 s = .next t ∧
      t = { g with
        timer := { g.timer with tassel := s.timer.tassel, id := s.timer.id, mc := s.timer.mc, taie := p.2.1,
                                taifg := p.2.2 },
        pc := g.pc + 1, rdata := none, result := none } ∧
      overflowPending t.timer = (p.2.1 && p.2.2) ∧
      ∃ u, exec .overflowFlagRead t = .next u ∧ u.result = some (.truth p.2.2)

/-- R176, R177, R178, R180: `flag_clear()` clears `CCIFG`, `enable()` sets `CCIE`, `disable()` clears it,
`clear_overflow_and_flag()` clears `COV` and `CCIFG` together; every other stored field of `CCTL[n]` is written back as
read, and `unread`, `CCR[n]` and the request are kept. Where nothing in between changed the input selection of the channel
(in particular where nothing falls in between) that is all; else the selection written back may make an edge, as in any
write (spec decision D19). -/
def Obligations.ChannelFlagAndEnableOperations : Prop :=
  ∀ (s : State) (n : Chan), wired s.cfg n = true →
    let c := s.timer.chan n
    ∀ p ∈ [(Instr.chFlagClear n, c.ccie, c.cov, false), (.chEnable n, true, c.cov, c.ccifg),
        (.chDisable n, false, c.cov, c.ccifg), (.chClearOverflowAndFlag n, c.ccie, false, false)],
      ∃ (v : Word) (after : Channel),
        let g := fillGap { s with pc := s.pc + 1, rdata := some v }
        let b := g.timer.chan n
        let stored := { b with
          cm := c.cm, ccis := c.ccis, scs := c.scs, cap := c.cap, outmod := c.outmod, out := c.out,
          ccie := p.2.1, cov := p.2.2.1, ccifg := p.2.2.2, outSig := if c.outmod = .out then c.out else b.outSig }
        v = cctlWord c ∧
        exec p.1 s = .next { g with
          timer := g.timer.setChan n after, pc := g.pc + 1, rdata := none, result := none, draws := g.draws + 1 } ∧
        EdgeOutcome (Config.draw g.draws) (cciSel b) stored after ∧
        (b.ccis = c.ccis → after = stored) ∧
        (s.gaps = [] → g = { s with pc := s.pc + 1, rdata := some v })

/-- R171: `config_output_mode(mode)`, one write of `mode << 5`, writes the mode and zeroes every other writable field of the channel's control register:
Compare role, output mode `mode`; `out_sig` goes low in mode 0 and is kept in another; `CCR[n]`, `unread[n]`, `cap_req[n]`
and `SCCI` are kept. A read of the register right after returns `mode << 5`, plus bit 3 if line A is high, plus bit 10 if
`SCCI` was set. On a channel that is not wired it is refused `RF4`. -/
def Obligations.ConfigOutputModeZeroesTheRest : Prop :=
  ∀ (s : State) (n : Chan) (mode : OutputMode),
    (∀ v, (Instr.chConfigOutputMode n mode).stims v = [.wr (.cctl n) (mode.code.setWidth 16 <<< 5)]) ∧
    (wired s.cfg n = true → ∃ t,
      exec (.chConfigOutputMode n mode) s = .next t ∧
      t = { s with
        timer := s.timer.setChan n { s.timer.chan n with
          cm := .none, ccis := .lineA, scs := false, cap := false, outmod := mode, ccie := false, out := false,
          cov := false, ccifg := false, outSig := if mode = .out then false else (s.timer.chan n).outSig },
        pc := s.pc + 1, rdata := none, result := none, draws := s.draws + 1 } ∧
      (cctlWord (t.timer.chan n)).toNat = 32 * mode.code.toNat + 8 * (s.timer.chan n).cciA.toNat +
        1024 * (s.timer.chan n).scci.toNat) ∧
    (wired s.cfg n = false →
      exec (.chConfigOutputMode n mode) s = .next { s with
        refused := true, pc := s.pc + 1, rdata := none, result := none,
        refusals := s.refusals ++ [(.rf4 n, s.pc)] })

/-- `config_capture_mode(edge, input)` (R172), one write, writes edge and input, forces `SCS` and `CAP`, zeroes `OUTMOD`, `CCIE`, `OUT`,
`COV`, `CCIFG` and so drives the output low; `unread[n]` is kept; a reselection of the input that makes a selected edge
latches one capture request, which is the spec's own decision (R162 D19, log 11). On a channel that is not wired it is
refused `RF4`. -/
def Obligations.ConfigCaptureModeForcesSynchronisedCapture : Prop :=
  ∀ (s : State) (n : Chan) (edge : CaptureEdge) (input : CaptureInput),
    let c := s.timer.chan n
    let level := match input with
      | .lineA => c.cciA
      | .lineB => c.cciB
      | .low => false
      | .high => true
    (∀ v, (Instr.chConfigCaptureMode n edge input).stims v =
      [.wr (.cctl n) (edge.code.setWidth 16 <<< 14 ||| input.code.setWidth 16 <<< 12 ||| 0x0900)]) ∧
    (wired s.cfg n = true → ∃ req : Bool,
      (req = true ↔ c.capReq = true ∨ SelectedEdge true edge (cciSel c) level) ∧
      exec (.chConfigCaptureMode n edge input) s = .next { s with
        timer := s.timer.setChan n { c with
          cm := edge, ccis := input, scs := true, cap := true, outmod := .out, ccie := false, out := false,
          cov := false, ccifg := false, outSig := false, capReq := req },
        pc := s.pc + 1, rdata := none, result := none, draws := s.draws + 1 }) ∧
    (wired s.cfg n = false →
      exec (.chConfigCaptureMode n edge input) s = .next { s with
        refused := true, pc := s.pc + 1, rdata := none, result := none,
        refusals := s.refusals ++ [(.rf4 n, s.pc)] })

/-- R173, R174: `set_value(x)`, one write of `CCRn`, stores `x` in `CCR[n]` and nothing else; `get_value()`, one read of it,
returns `CCR[n]`, clears `unread[n]` and no flag; `set_value(v)` followed by `get_value()` returns `v`, for every `v` and in
either role. On a channel that is not wired both are refused `RF4`. -/
def Obligations.SetValueThenGetValue : Prop :=
  ∀ (s : State) (n : Chan) (x : Word),
    let c := s.timer.chan n
    (∀ v, (Instr.chSetValue n x).stims v = [.wr (.ccr n) x] ∧ (Instr.chGetValue n).stims v = [.rd (.ccr n)]) ∧
    (wired s.cfg n = true →
      exec (.chSetValue n x) s = .next { s with
        timer := s.timer.setChan n { c with ccr := x }, pc := s.pc + 1, rdata := none, result := none } ∧
      exec (.chGetValue n) s = .next { s with
        timer := s.timer.setChan n { c with unread := false }, pc := s.pc + 1, rdata := some c.ccr,
        result := some (.value c.ccr) } ∧
      ∃ t, runInstrs [.chSetValue n x, .chGetValue n] s = .next t ∧ t.result = some (.value x)) ∧
    (wired s.cfg n = false → ∀ i ∈ [Instr.chSetValue n x, .chGetValue n],
      exec i s = .next { s with refused := true, pc := s.pc + 1, rdata := none, result := none,
                                refusals := s.refusals ++ [(.rf4 n, s.pc)] })

/-- R190: `read_vector()`, one read of `IV`, returns the value of the vector register and clears the one flag it names; called twice in
succession with one pending source only, it returns the source's code once and 0 the second time. -/
def Obligations.ReadVectorAcknowledgesOnce : Prop :=
  (∀ v, (Instr.readVector).stims v = [.rd .iv]) ∧ ∀ s : State,
    (∃ t x, exec .rdIv s = .next t ∧ t.rdata = some x ∧
      exec .readVector s = .next { t with result := some (.value x) }) ∧
    (∀ n, SharedPending s n → (∀ m, SharedPending s m → m = n) → ¬ (s.timer.taifg = true ∧ s.timer.taie = true) →
      ∃ t u, exec .readVector s = .next t ∧ t.result = some (.value (BitVec.ofNat 16 (2 * n.val))) ∧
        exec .readVector t = .next u ∧ u.result = some (.value 0)) ∧
    ((∀ m, ¬ SharedPending s m) → s.timer.taifg = true → s.timer.taie = true →
      ∃ t u, exec .readVector s = .next t ∧ t.result = some (.value 14) ∧
        exec .readVector t = .next u ∧ u.result = some (.value 0))

/-- Two captures on a channel before its value is read make `capture_overflow_and_flag_read()` return `(true, true)`, and
after `clear_overflow_and_flag()` it returns `(false, false)`: a channel capturing both edges of line A, its request latched,
the synchroniser firing twice with one edge in between, nothing falling inside the operations (the source's property of
section 8; the event path is spec decision D19). -/
def Obligations.TwoCapturesBeforeReadReportOverflow : Prop :=
  ∀ (s : State) (n : BitVec 3) (k : Chan), n.toNat = k.val → wired s.cfg k = true → s.gaps = [] →
    (s.timer.chan k).cap = true → (s.timer.chan k).scs = true → (s.timer.chan k).cm = .both →
    (s.timer.chan k).ccis = .lineA → (s.timer.chan k).capReq = true →
    let edge := Instr.pin n .a (!(s.timer.chan k).cciA)
    (∃ t, runInstrs [.sync n, edge, .sync n, .chCaptureOverflowAndFlagRead k] s = .next t ∧
      t.result = some (.pair true true) ∧ (t.timer.chan k).ccr = s.timer.tar) ∧
    (∃ t, runInstrs [.sync n, edge, .sync n, .chClearOverflowAndFlag k, .chCaptureOverflowAndFlagRead k] s = .next t ∧
      t.result = some (.pair false false))

/-- A read-modify-write operation on a channel that is not wired changes nothing of the channel: both of its transactions are
refused `RF4`, with whatever falls between them carried out in between (spec decisions D13, D31; log 8). -/
def Obligations.ChannelModifyOnUnwiredChannelRefusedTwice : Prop :=
  ∀ (s : State) (n : Chan), wired s.cfg n = false → ∀ p ∈ cctlModifies n,
    let g := fillGap { s with refused := true, pc := s.pc + 1, rdata := none,
                              refusals := s.refusals ++ [(.rf4 n, s.pc)] }
    exec p.1 s = .next { g with refused := true, pc := g.pc + 1, rdata := none, result := none,
                                refusals := g.refusals ++ [(.rf4 n, g.pc)] }

/-- A driver operation is its expansion: the operation with the words `gap` falling inside it ends in the very state that the
run of the stimulus words `RD`, `gap`, `WR` of the value computed from what the `RD` returned ends in, but for the result
and for the gap being used up, for every read-modify-write operation, on `CTL` and on a wired channel (R8, R46; the
expansions are spec decision D22, the non-atomicity D23). -/
def Obligations.DriverOperationRefinesItsWords : Prop :=
  ∀ (s : State) (gap : List StimWord) (rest : List (List StimWord)) (n : Chan), s.gaps = gap :: rest →
    (∀ p ∈ ctlModifies, ∀ v : Word, exec .rdCtl s = .next { s with pc := s.pc + 1, rdata := some v } →
      (s.stimuli.drop s.pc).take (gap.length + 2) = [0x000000#24] ++ gap ++ [0x400000#24 ||| (p.2 v).setWidth 24] →
      ∃ t u, core.run (gap.length + 2) s = .next t ∧ exec p.1 s = .next u ∧
        { t with gaps := rest, result := none } = u) ∧
    (wired s.cfg n = true → ∀ p ∈ cctlModifies n, ∀ v : Word,
      exec (.chFlagRead n) s = .next { s with pc := s.pc + 1, rdata := some v,
                                              result := some (.truth (s.timer.chan n).ccifg) } →
      (s.stimuli.drop s.pc).take (gap.length + 2) = [BitVec.ofNat 24 (0x020000 + 0x020000 * n.val)] ++ gap ++
        [0x400000#24 ||| BitVec.ofNat 24 (0x020000 + 0x020000 * n.val) ||| (p.2 v).setWidth 24] →
      ∃ t u, core.run (gap.length + 2) s = .next t ∧ exec p.1 s = .next u ∧
        { t with gaps := rest, result := none } = u)

/-! ## Rules of the whole machine -/

/-- Every step keeps the invariant: in output mode 0 the output is the `OUT` bit, the places of unwired channels stay as at
launch, `refused` is set exactly when a refusal is recorded, and the records stand in order and before `pc`. -/
def Obligations.StepKeepsInvariant : Prop :=
  ∀ s t : State, Inv s → step s = .next t → Inv t

/-- The state right after reset has the invariant, and no request line is high in it. -/
def Obligations.ResetHasInvariant : Prop :=
  Inv State.reset ∧ Safe State.reset ∧ irqCcr0 State.reset.timer = false ∧ irqIv State.reset.cfg State.reset.timer = false

/-- Every step advances `pc` by exactly 1, refused or not, and changes neither the configuration nor the stimulus list; a
step is refused exactly when it adds one record, and then the instance is unchanged; `refused` is never cleared (spec
decisions D30, D31). -/
def Obligations.StepAdvancesOneStimulus : Prop :=
  ∀ s t : State, step s = .next t →
    t.pc = s.pc + 1 ∧ t.cfg = s.cfg ∧ t.stimuli = s.stimuli ∧
    (s.refused = true → t.refused = true) ∧
    ((t.refused = s.refused ∧ t.refusals = s.refusals) ∨
      (t.refused = true ∧ t.timer = s.timer ∧ ∃ cause, t.refusals = s.refusals ++ [(cause, s.pc)]))

/-- "Only a `CTL` write or `RESET` changes" the run mode (R125): a step that changes it carried out a `WR CTL` word, whose
data names the new mode, or the `RESET` word, and then the mode is Stopped. -/
def Obligations.OnlyCtlWriteOrResetChangesMode : Prop :=
  ∀ s t : State, step s = .next t → t.timer.mc ≠ s.timer.mc →
    (∃ w : StimWord, s.stimuli[s.pc]? = some w ∧ w.toNat / 0x10000 = 0x40 ∧
      t.timer.mc.code.toNat = w.toNat / 16 % 4) ∨
    (s.stimuli[s.pc]? = some 0x800000 ∧ t.timer.mc = .stopped)

/-- R11: the counter is written by a tick, by a clear pulse (to 0), by a write of `R` (to the data) and by reset (to 0),
and by nothing else. -/
def Obligations.CounterWrittenOnlyByItsFourWriters : Prop :=
  ∀ s t : State, step s = .next t → t.timer.tar ≠ s.timer.tar →
    ∃ w : StimWord, s.stimuli[s.pc]? = some w ∧
      ((w.toNat = 0x810000 + s.timer.tassel.code.toNat ∧ s.timer.mc ≠ .stopped ∧ s.timer.presc = 0 ∧
          (t.timer.tar = 0 ∨ t.timer.tar = s.timer.tar + 1)) ∨
        (w.toNat / 0x10000 = 0x40 ∧ w.toNat / 4 % 2 = 1 ∧ t.timer.tar = 0) ∨
        (w.toNat / 0x10000 = 0x50 ∧ t.timer.tar.toNat = w.toNat % 0x10000) ∨
        (w.toNat = 0x800000 ∧ t.timer.tar = 0))

/-- The overflow flag is set by hardware only on a tick that wraps the counter to 0, from the top or above in Up mode and
from 0xFFFF in Continuous mode; the one other way it comes to be set is a `CTL` write of a 1 (spec decisions D16, D21). -/
def Obligations.OverflowFlagSetOnlyByWrapOrWrite : Prop :=
  ∀ s t : State, step s = .next t → s.timer.taifg = false → t.timer.taifg = true →
    ∃ w : StimWord, s.stimuli[s.pc]? = some w ∧
      ((w.toNat = 0x810000 + s.timer.tassel.code.toNat ∧ s.timer.presc = 0 ∧ t.timer.tar = 0 ∧
          ((s.timer.mc = .up ∧ (s.timer.chan 0).ccr ≤ s.timer.tar ∧ (s.timer.chan 0).ccr ≠ 0) ∨
            (s.timer.mc = .continuous ∧ s.timer.tar = 0xFFFF))) ∨
        (w.toNat / 0x10000 = 0x40 ∧ w.toNat % 2 = 1))

/-- A flag once set stays set until it is cleared by one of the stimuli the summary of R24 lists: `COV` by a write of the
channel's control register with bit 1 clear or by reset; `CCIFG` by such a write with bit 0 clear, by an acknowledge (a
vector access for a channel other than 0, `ACK0` for channel 0) or by reset; `TAIFG` by a `CTL` write with bit 0 clear, by a
vector access or by reset. No tick, capture, read of its register or mode change clears one. (The acknowledge by `WR IV` is
spec decision D9, `ACK0` D24.) -/
def Obligations.FlagsPersistUntilCleared : Prop :=
  ∀ (s t : State) (w : StimWord) (n : Chan), s.stimuli[s.pc]? = some w → step s = .next t →
    let cctlWrite := w.toNat / 0x10000 = 0x42 + 2 * n.val
    let vectorAccess := w = 0x2E0000 ∨ w.toNat / 0x10000 = 0x6E
    ((s.timer.chan n).cov = true → (t.timer.chan n).cov = false →
      (cctlWrite ∧ w.toNat / 2 % 2 = 0) ∨ w = 0x800000) ∧
    ((s.timer.chan n).ccifg = true → (t.timer.chan n).ccifg = false →
      (cctlWrite ∧ w.toNat % 2 = 0) ∨ (n ≠ 0 ∧ vectorAccess ∧ SharedPending s n) ∨ (n = 0 ∧ w = 0x840000) ∨
        w = 0x800000) ∧
    (s.timer.taifg = true → t.timer.taifg = false →
      (w.toNat / 0x10000 = 0x40 ∧ w.toNat % 2 = 0) ∨ (vectorAccess ∧ s.timer.taie = true) ∨ w = 0x800000)

/-- The input levels belong to the environment: only a `PIN` of the channel changes them, not even `RESET` (spec decisions
D19, D33). -/
def Obligations.InputLinesChangedOnlyByPin : Prop :=
  ∀ (s t : State) (n : Chan), step s = .next t →
    ((t.timer.chan n).cciA ≠ (s.timer.chan n).cciA ∨ (t.timer.chan n).cciB ≠ (s.timer.chan n).cciB) →
    ∃ w : StimWord, s.stimuli[s.pc]? = some w ∧ w.toNat / 0x10000 = 0x82 ∧ w.toNat / 16 % 8 = n.val

/-- R206: channel 0 never appears in the vector value, is never acknowledged by a vector access and never drives the shared
request line; with one channel the only source of the shared line is the overflow. -/
def Obligations.ChannelZeroStaysOffTheVector : Prop :=
  ∀ (s : State) (c : Channel),
    ivVal s.cfg (s.timer.setChan 0 c) = ivVal s.cfg s.timer ∧
    irqIv s.cfg (s.timer.setChan 0 c) = irqIv s.cfg s.timer ∧
    (∃ t, exec .rdIv s = .next t ∧ t.timer.chan 0 = s.timer.chan 0) ∧
    (∀ d, ∃ t, exec (.wrIv d) s = .next t ∧ t.timer.chan 0 = s.timer.chan 0) ∧
    (s.cfg.lastCh = 0 → (irqIv s.cfg s.timer = true ↔ s.timer.taifg = true ∧ s.timer.taie = true) ∧
      (ivVal s.cfg s.timer = 0 ∨ ivVal s.cfg s.timer = 14))

/-- The request lines: `irq_ccr0` is high exactly while channel 0's flag and enable are set, `irq_iv` exactly while another
wired channel or the overflow is pending (spec decision D24); and an acknowledge takes one source away and leaves every
other one pending: while `irq_iv` is high `RD IV` reports a pending source, the source it reports is pending no longer, every
other pending source still is, the enables are kept, and no source becomes pending (R205; the codes are spec decision D7). -/
def Obligations.RequestLinesFollowPendingSources : Prop :=
  ∀ s : State,
    (irqCcr0 s.timer = true ↔ (s.timer.chan 0).ccifg = true ∧ (s.timer.chan 0).ccie = true) ∧
    (irqIv s.cfg s.timer = true ↔ (∃ n, SharedPending s n) ∨ (s.timer.taifg = true ∧ s.timer.taie = true)) ∧
    ∃ t, exec .rdIv s = .next t ∧
      (irqIv s.cfg s.timer = true →
        (∃ n, SharedPending s n ∧ t.rdata = some (BitVec.ofNat 16 (2 * n.val))) ∨
        (s.timer.taifg = true ∧ s.timer.taie = true ∧ t.rdata = some 14)) ∧
      (∀ n, t.rdata = some (BitVec.ofNat 16 (2 * n.val)) → ¬ SharedPending t n) ∧
      (t.rdata = some 14 → t.timer.taifg = false) ∧
      (∀ n, SharedPending s n → t.rdata ≠ some (BitVec.ofNat 16 (2 * n.val)) → SharedPending t n) ∧
      (∀ n, SharedPending t n → SharedPending s n) ∧
      (s.timer.taifg = true → t.rdata ≠ some 14 → t.timer.taifg = true) ∧
      (t.timer.taifg = true → s.timer.taifg = true) ∧
      t.timer.taie = s.timer.taie ∧ ∀ n, (t.timer.chan n).ccie = (s.timer.chan n).ccie

/-- A handler that reads the vector as often as there are channels services every pending source: after `N_CH` calls of
`read_vector()` the shared request line is low, and each call that returns a code clears the one flag it names, channel 0's
flag and the flags of sources that were not enabled staying as they were (the spec derives the loop in 44_vector.md; the
codes and the order are spec decisions D5 and D7). -/
def Obligations.VectorLoopServicesEverySource : Prop :=
  ∀ s : State, ∃ t,
    runInstrs (List.replicate (s.cfg.lastCh.val + 1) .readVector) s = .next t ∧
    irqIv t.cfg t.timer = false ∧
    (∀ n, (t.timer.chan n).ccifg = true ↔ (s.timer.chan n).ccifg = true ∧ ¬ SharedPending s n) ∧
    (t.timer.taifg = true ↔ s.timer.taifg = true ∧ s.timer.taie = false)
end

