-- ==== Sys2Proof/Laws/State.lean ====
section
/-! SUPPORT. One lemma per field per update of the state, and the read-after-write laws of the channel places. -/

namespace Sys2Proof.Machine

/-! ## Channel places -/

@[simp] theorem Channels.get_set_same (cs : Channels) (n : Chan) (c : Channel) : (cs.set n c).get n = c := by
  fin_cases n <;> rfl

theorem Channels.get_set_ne (cs : Channels) (n m : Chan) (c : Channel) (h : m ≠ n) :
    (cs.set n c).get m = cs.get m := by
  fin_cases n <;> fin_cases m <;> first | rfl | exact absurd rfl h

theorem Channels.get_set (cs : Channels) (n m : Chan) (c : Channel) :
    (cs.set n c).get m = if m = n then c else cs.get m := by
  split
  · subst_vars; simp
  · exact Channels.get_set_ne _ _ _ _ ‹_›

@[simp] theorem Channels.get_mapIdx (cs : Channels) (f : Chan → Channel → Channel) (n : Chan) :
    (cs.mapIdx f).get n = f n (cs.get n) := by
  fin_cases n <;> rfl

theorem Channels.ext_get {a b : Channels} (h : ∀ n, a.get n = b.get n) : a = b := by
  obtain ⟨a0, a1, a2, a3, a4, a5, a6⟩ := a
  obtain ⟨b0, b1, b2, b3, b4, b5, b6⟩ := b
  have h0 : a0 = b0 := h 0
  have h1 : a1 = b1 := h 1
  have h2 : a2 = b2 := h 2
  have h3 : a3 = b3 := h 3
  have h4 : a4 = b4 := h 4
  have h5 : a5 = b5 := h 5
  have h6 : a6 = b6 := h 6
  subst_vars; rfl

@[simp] theorem Channels.set_get (cs : Channels) (n : Chan) : cs.set n (cs.get n) = cs := by
  fin_cases n <;> rfl

@[simp] theorem Channels.set_set (cs : Channels) (n : Chan) (c d : Channel) : (cs.set n c).set n d = cs.set n d := by
  fin_cases n <;> rfl

@[simp] theorem Channels.initial_get (n : Chan) : Channels.initial.get n = Channel.initial := by
  fin_cases n <;> rfl

/-! ## `Timer.setChan` and `Timer.mapWired` -/

/-- A channel of an instance depends on the channel places only. -/
@[simp] theorem Timer.chan_mk (tar : Word) (tassel : ClockSource) (id : PrimaryDivider) (mc : RunMode) (taie taifg : Bool)
    (taidex : BitVec 3) (presc : BitVec 6) (cs : Channels) (n : Chan) :
    (Timer.mk tar tassel id mc taie taifg taidex presc cs).chan n = cs.get n := rfl

@[simp] theorem Timer.chans_get (t : Timer) (n : Chan) : t.chans.get n = t.chan n := rfl

@[simp] theorem Timer.setChan_chan_same (t : Timer) (n : Chan) (c : Channel) : (t.setChan n c).chan n = c :=
  Channels.get_set_same _ _ _

theorem Timer.setChan_chan_ne (t : Timer) (n m : Chan) (c : Channel) (h : m ≠ n) :
    (t.setChan n c).chan m = t.chan m := Channels.get_set_ne _ _ _ _ h

theorem Timer.setChan_chan (t : Timer) (n m : Chan) (c : Channel) :
    (t.setChan n c).chan m = if m = n then c else t.chan m := Channels.get_set _ _ _ _

@[simp] theorem Timer.setChan_self (t : Timer) (n : Chan) : t.setChan n (t.chan n) = t := by
  simp only [Timer.setChan, Timer.chan, Channels.set_get]

@[simp] theorem Timer.setChan_setChan (t : Timer) (n : Chan) (c d : Channel) :
    (t.setChan n c).setChan n d = t.setChan n d := by simp [Timer.setChan]

@[simp] theorem Timer.setChan_tar (t : Timer) (n : Chan) (c : Channel) : (t.setChan n c).tar = t.tar := rfl
@[simp] theorem Timer.setChan_tassel (t : Timer) (n : Chan) (c : Channel) : (t.setChan n c).tassel = t.tassel := rfl
@[simp] theorem Timer.setChan_id (t : Timer) (n : Chan) (c : Channel) : (t.setChan n c).id = t.id := rfl
@[simp] theorem Timer.setChan_mc (t : Timer) (n : Chan) (c : Channel) : (t.setChan n c).mc = t.mc := rfl
@[simp] theorem Timer.setChan_taie (t : Timer) (n : Chan) (c : Channel) : (t.setChan n c).taie = t.taie := rfl
@[simp] theorem Timer.setChan_taifg (t : Timer) (n : Chan) (c : Channel) : (t.setChan n c).taifg = t.taifg := rfl
@[simp] theorem Timer.setChan_taidex (t : Timer) (n : Chan) (c : Channel) : (t.setChan n c).taidex = t.taidex := rfl
@[simp] theorem Timer.setChan_presc (t : Timer) (n : Chan) (c : Channel) : (t.setChan n c).presc = t.presc := rfl

@[simp] theorem Timer.mapWired_chan (cfg : Cfg) (f : Channel → Channel) (t : Timer) (n : Chan) :
    (t.mapWired cfg f).chan n = if wired cfg n then f (t.chan n) else t.chan n := by
  simp only [Timer.mapWired, Timer.chan, Channels.get_mapIdx]

@[simp] theorem Timer.mapWired_tar (cfg : Cfg) (f : Channel → Channel) (t : Timer) :
    (t.mapWired cfg f).tar = t.tar := rfl
@[simp] theorem Timer.mapWired_tassel (cfg : Cfg) (f : Channel → Channel) (t : Timer) :
    (t.mapWired cfg f).tassel = t.tassel := rfl
@[simp] theorem Timer.mapWired_id (cfg : Cfg) (f : Channel → Channel) (t : Timer) :
    (t.mapWired cfg f).id = t.id := rfl
@[simp] theorem Timer.mapWired_mc (cfg : Cfg) (f : Channel → Channel) (t : Timer) :
    (t.mapWired cfg f).mc = t.mc := rfl
@[simp] theorem Timer.mapWired_taie (cfg : Cfg) (f : Channel → Channel) (t : Timer) :
    (t.mapWired cfg f).taie = t.taie := rfl
@[simp] theorem Timer.mapWired_taifg (cfg : Cfg) (f : Channel → Channel) (t : Timer) :
    (t.mapWired cfg f).taifg = t.taifg := rfl
@[simp] theorem Timer.mapWired_taidex (cfg : Cfg) (f : Channel → Channel) (t : Timer) :
    (t.mapWired cfg f).taidex = t.taidex := rfl
@[simp] theorem Timer.mapWired_presc (cfg : Cfg) (f : Channel → Channel) (t : Timer) :
    (t.mapWired cfg f).presc = t.presc := rfl

/-- Channel 0 is always wired: `N_CH >= 1` (R5). -/
@[simp] theorem wired_zero (cfg : Cfg) : wired cfg 0 = true := by simp [wired, nCh]

theorem wired_iff (cfg : Cfg) (n : Chan) : wired cfg n = true ↔ n ≤ cfg.lastCh := by
  rw [wired, decide_eq_true_iff, nCh, Fin.le_def]; omega

/-! ## The three ends of a stimulus -/

section
variable (t : Timer) (v : Word) (cause : RefusalCause) (s : State)

@[simp] theorem complete_cfg : (complete t s).cfg = s.cfg := rfl
@[simp] theorem complete_timer : (complete t s).timer = t := rfl
@[simp] theorem complete_refused : (complete t s).refused = s.refused := rfl
@[simp] theorem complete_pc : (complete t s).pc = s.pc + 1 := rfl
@[simp] theorem complete_stimuli : (complete t s).stimuli = s.stimuli := rfl
@[simp] theorem complete_gaps : (complete t s).gaps = s.gaps := rfl
@[simp] theorem complete_rdata : (complete t s).rdata = none := rfl
@[simp] theorem complete_result : (complete t s).result = s.result := rfl
@[simp] theorem complete_refusals : (complete t s).refusals = s.refusals := rfl
@[simp] theorem complete_draws : (complete t s).draws = s.draws := rfl

@[simp] theorem answer_cfg : (answer v t s).cfg = s.cfg := rfl
@[simp] theorem answer_timer : (answer v t s).timer = t := rfl
@[simp] theorem answer_refused : (answer v t s).refused = s.refused := rfl
@[simp] theorem answer_pc : (answer v t s).pc = s.pc + 1 := rfl
@[simp] theorem answer_stimuli : (answer v t s).stimuli = s.stimuli := rfl
@[simp] theorem answer_gaps : (answer v t s).gaps = s.gaps := rfl
@[simp] theorem answer_rdata : (answer v t s).rdata = some v := rfl
@[simp] theorem answer_result : (answer v t s).result = s.result := rfl
@[simp] theorem answer_refusals : (answer v t s).refusals = s.refusals := rfl
@[simp] theorem answer_draws : (answer v t s).draws = s.draws := rfl

@[simp] theorem refuse_cfg : (refuse cause s).cfg = s.cfg := rfl
@[simp] theorem refuse_timer : (refuse cause s).timer = s.timer := rfl
@[simp] theorem refuse_refused : (refuse cause s).refused = true := rfl
@[simp] theorem refuse_pc : (refuse cause s).pc = s.pc + 1 := rfl
@[simp] theorem refuse_stimuli : (refuse cause s).stimuli = s.stimuli := rfl
@[simp] theorem refuse_gaps : (refuse cause s).gaps = s.gaps := rfl
@[simp] theorem refuse_rdata : (refuse cause s).rdata = none := rfl
@[simp] theorem refuse_result : (refuse cause s).result = s.result := rfl
@[simp] theorem refuse_refusals : (refuse cause s).refusals = s.refusals ++ [(cause, s.pc)] := rfl
@[simp] theorem refuse_draws : (refuse cause s).draws = s.draws := rfl

end

/-- A stimulus with a free value of its own is the stimulus on the state with the counter moved on. -/
theorem withDraw_eq (k : Word → State → State) (s : State) :
    withDraw k s = k (Config.draw s.draws) { s with draws := s.draws + 1 } := rfl

end Sys2Proof.Machine
end

