-- ==== Sys2Proof/Laws/Layout.lean ====
section
/-! SUPPORT. The numeric codes are bijections, and the register layouts say where each field stands. -/

namespace Sys2Proof

@[simp] theorem ClockSource.ofCode_code (x : ClockSource) : ClockSource.ofCode x.code = x := by cases x <;> rfl
@[simp] theorem PrimaryDivider.ofCode_code (x : PrimaryDivider) : PrimaryDivider.ofCode x.code = x := by cases x <;> rfl
@[simp] theorem RunMode.ofCode_code (x : RunMode) : RunMode.ofCode x.code = some x := by cases x <;> rfl
@[simp] theorem OutputMode.ofCode_code (x : OutputMode) : OutputMode.ofCode x.code = x := by cases x <;> rfl
@[simp] theorem CaptureEdge.ofCode_code (x : CaptureEdge) : CaptureEdge.ofCode x.code = x := by cases x <;> rfl
@[simp] theorem CaptureInput.ofCode_code (x : CaptureInput) : CaptureInput.ofCode x.code = x := by cases x <;> rfl

@[simp] theorem ClockSource.code_ofCode : ∀ c : BitVec 2, (ClockSource.ofCode c).code = c := by decide
@[simp] theorem PrimaryDivider.code_ofCode : ∀ c : BitVec 2, (PrimaryDivider.ofCode c).code = c := by decide
@[simp] theorem OutputMode.code_ofCode : ∀ c : BitVec 3, (OutputMode.ofCode c).code = c := by decide
@[simp] theorem CaptureEdge.code_ofCode : ∀ c : BitVec 2, (CaptureEdge.ofCode c).code = c := by decide
@[simp] theorem CaptureInput.code_ofCode : ∀ c : BitVec 2, (CaptureInput.ofCode c).code = c := by decide

/-- Only code 3 names no run mode (R83). -/
theorem RunMode.ofCode_eq_none : ∀ c : BitVec 2, RunMode.ofCode c = none ↔ c = 3 := by decide

theorem RunMode.code_of_ofCode : ∀ (c : BitVec 2) (m : RunMode), RunMode.ofCode c = some m → m.code = c := by
  intro c m; cases m <;> revert c <;> decide

end Sys2Proof

namespace Sys2Proof.Machine

theorem fieldAt_getElem {w : Nat} (v : BitVec w) (lo i : Nat) (h : i < 16) :
    (fieldAt v lo)[i] = (decide (lo ≤ i) && v.getLsbD (i - lo)) := by
  unfold fieldAt
  by_cases h1 : lo ≤ i <;> simp [h1]

/-- A field of a data word as a number. -/
theorem field_toNat (d : Word) (lo w : Nat) : (d.extractLsb' lo w).toNat = d.toNat / 2 ^ lo % 2 ^ w := by
  simp [Nat.shiftRight_eq_div_pow]

/-- A bit of a data word as a number. -/
theorem bit_eq_decide (d : Word) (i : Nat) : d.getLsbD i = decide (d.toNat / 2 ^ i % 2 = 1) := by
  simp only [BitVec.getLsbD, Nat.testBit, Nat.shiftRight_eq_div_pow, Nat.one_and_eq_mod_two]
  rcases Nat.mod_two_eq_zero_or_one (d.toNat / 2 ^ i) with h | h <;> simp [h]

/-! ## `CTL`, R63 -/

theorem ctlWord_tassel (t : Timer) : (ctlWord t).extractLsb' 8 2 = t.tassel.code := by
  unfold ctlWord
  ext i hi
  have : i = 0 ∨ i = 1 := by omega
  rcases this with rfl | rfl <;> simp [BitVec.getElem_extractLsb', fieldAt_getElem]

theorem ctlWord_id (t : Timer) : (ctlWord t).extractLsb' 6 2 = t.id.code := by
  unfold ctlWord
  ext i hi
  have : i = 0 ∨ i = 1 := by omega
  rcases this with rfl | rfl <;> simp [BitVec.getElem_extractLsb', fieldAt_getElem]

theorem ctlWord_mc (t : Timer) : (ctlWord t).extractLsb' 4 2 = t.mc.code := by
  unfold ctlWord
  ext i hi
  have : i = 0 ∨ i = 1 := by omega
  rcases this with rfl | rfl <;> simp [BitVec.getElem_extractLsb', fieldAt_getElem]

theorem ctlWord_taie (t : Timer) : (ctlWord t).getLsbD 1 = t.taie := by
  simp [ctlWord, fieldAt_getElem]

theorem ctlWord_taifg (t : Timer) : (ctlWord t).getLsbD 0 = t.taifg := by
  simp [ctlWord, fieldAt_getElem]

theorem ctlWord_taclr (t : Timer) : (ctlWord t).getLsbD 2 = false := by
  simp [ctlWord, fieldAt_getElem]

/-- `CTL` as a number, R81. -/
theorem ctlWord_toNat (t : Timer) :
    (ctlWord t).toNat = 256 * t.tassel.code.toNat + 64 * t.id.code.toNat + 16 * t.mc.code.toNat + 2 * t.taie.toNat +
      t.taifg.toNat := by
  unfold ctlWord
  cases t.tassel <;> cases t.id <;> cases t.mc <;> cases t.taie <;> cases t.taifg <;> rfl

/-- Storing what a read of `CTL` returned stores nothing new. -/
theorem storeCtl_ctlWord (t u : Timer) :
    storeCtl (ctlWord t) t.mc u =
      { u with tassel := t.tassel, id := t.id, mc := t.mc, taie := t.taie, taifg := t.taifg } := by
  simp only [storeCtl, ctlWord_tassel, ctlWord_id, ctlWord_taie, ctlWord_taifg, ClockSource.ofCode_code,
    PrimaryDivider.ofCode_code]

/-! ## `CCTL[n]`, R64 -/

theorem cctlWord_cm (c : Channel) : (cctlWord c).extractLsb' 14 2 = c.cm.code := by
  unfold cctlWord
  ext i hi
  have : i = 0 ∨ i = 1 := by omega
  rcases this with rfl | rfl <;> simp [BitVec.getElem_extractLsb', fieldAt_getElem]

theorem cctlWord_ccis (c : Channel) : (cctlWord c).extractLsb' 12 2 = c.ccis.code := by
  unfold cctlWord
  ext i hi
  have : i = 0 ∨ i = 1 := by omega
  rcases this with rfl | rfl <;> simp [BitVec.getElem_extractLsb', fieldAt_getElem]

theorem cctlWord_outmod (c : Channel) : (cctlWord c).extractLsb' 5 3 = c.outmod.code := by
  unfold cctlWord
  ext i hi
  have : i = 0 ∨ i = 1 ∨ i = 2 := by omega
  rcases this with rfl | rfl | rfl <;> simp [BitVec.getElem_extractLsb', fieldAt_getElem]

theorem cctlWord_scs (c : Channel) : (cctlWord c).getLsbD 11 = c.scs := by
  simp [cctlWord, fieldAt_getElem]

theorem cctlWord_scci (c : Channel) : (cctlWord c).getLsbD 10 = c.scci := by
  simp [cctlWord, fieldAt_getElem]

theorem cctlWord_cap (c : Channel) : (cctlWord c).getLsbD 8 = c.cap := by
  simp [cctlWord, fieldAt_getElem]

theorem cctlWord_ccie (c : Channel) : (cctlWord c).getLsbD 4 = c.ccie := by
  simp [cctlWord, fieldAt_getElem]

theorem cctlWord_cci (c : Channel) : (cctlWord c).getLsbD 3 = cciSel c := by
  simp [cctlWord, fieldAt_getElem]

theorem cctlWord_out (c : Channel) : (cctlWord c).getLsbD 2 = c.out := by
  simp [cctlWord, fieldAt_getElem]

theorem cctlWord_cov (c : Channel) : (cctlWord c).getLsbD 1 = c.cov := by
  simp [cctlWord, fieldAt_getElem]

theorem cctlWord_ccifg (c : Channel) : (cctlWord c).getLsbD 0 = c.ccifg := by
  simp [cctlWord, fieldAt_getElem]

theorem cctlWord_reserved (c : Channel) : (cctlWord c).getLsbD 9 = false := by
  simp [cctlWord, fieldAt_getElem]

/-- `CCTL[n]` as a number, R84. -/
theorem cctlWord_toNat (c : Channel) :
    (cctlWord c).toNat = 16384 * c.cm.code.toNat + 4096 * c.ccis.code.toNat + 2048 * c.scs.toNat +
      1024 * c.scci.toNat + 256 * c.cap.toNat + 32 * c.outmod.code.toNat + 16 * c.ccie.toNat +
      8 * (cciSel c).toNat + 4 * c.out.toNat + 2 * c.cov.toNat + c.ccifg.toNat := by
  have hi : (fieldAt c.cm.code 14 ||| fieldAt c.ccis.code 12 ||| fieldAt (BitVec.ofBool c.scs) 11 |||
      fieldAt (BitVec.ofBool c.scci) 10 ||| fieldAt (BitVec.ofBool c.cap) 8).toNat =
      2 ^ 8 * (64 * c.cm.code.toNat + 16 * c.ccis.code.toNat + 8 * c.scs.toNat + 4 * c.scci.toNat + c.cap.toNat) := by
    cases c.cm <;> cases c.ccis <;> cases c.scs <;> cases c.scci <;> cases c.cap <;> rfl
  have lo : (fieldAt c.outmod.code 5 ||| fieldAt (BitVec.ofBool c.ccie) 4 ||| fieldAt (BitVec.ofBool (cciSel c)) 3 |||
      fieldAt (BitVec.ofBool c.out) 2 ||| fieldAt (BitVec.ofBool c.cov) 1 ||| fieldAt (BitVec.ofBool c.ccifg) 0).toNat =
      32 * c.outmod.code.toNat + 16 * c.ccie.toNat + 8 * (cciSel c).toNat + 4 * c.out.toNat + 2 * c.cov.toNat +
        c.ccifg.toNat := by
    cases c.outmod <;> cases c.ccie <;> cases cciSel c <;> cases c.out <;> cases c.cov <;> cases c.ccifg <;> rfl
  have h : cctlWord c =
      (fieldAt c.cm.code 14 ||| fieldAt c.ccis.code 12 ||| fieldAt (BitVec.ofBool c.scs) 11 |||
        fieldAt (BitVec.ofBool c.scci) 10 ||| fieldAt (BitVec.ofBool c.cap) 8) |||
      (fieldAt c.outmod.code 5 ||| fieldAt (BitVec.ofBool c.ccie) 4 ||| fieldAt (BitVec.ofBool (cciSel c)) 3 |||
        fieldAt (BitVec.ofBool c.out) 2 ||| fieldAt (BitVec.ofBool c.cov) 1 ||| fieldAt (BitVec.ofBool c.ccifg) 0) := by
    simp only [cctlWord, BitVec.or_assoc]
  have hm : c.outmod.code.toNat < 8 := c.outmod.code.isLt
  have hb : ∀ b : Bool, b.toNat ≤ 1 := Bool.toNat_le
  rw [h, BitVec.toNat_or, hi, lo, ← Nat.two_pow_add_eq_or_of_lt]
  · omega
  · have := hb c.ccie; have := hb (cciSel c); have := hb c.out; have := hb c.cov; have := hb c.ccifg
    omega

/-- Storing what a read of `CCTL[n]` returned stores nothing new. -/
theorem storeCctl_cctlWord (c d : Channel) :
    storeCctl (cctlWord c) d =
      { d with cm := c.cm, ccis := c.ccis, scs := c.scs, cap := c.cap, outmod := c.outmod, ccie := c.ccie, out := c.out,
               cov := c.cov, ccifg := c.ccifg } := by
  simp only [storeCctl, cctlWord_cm, cctlWord_ccis, cctlWord_outmod, cctlWord_scs, cctlWord_cap, cctlWord_ccie,
    cctlWord_out, cctlWord_cov, cctlWord_ccifg, CaptureEdge.ofCode_code, CaptureInput.ofCode_code,
    OutputMode.ofCode_code]

end Sys2Proof.Machine
end

