-- ==== Sys2Proof/Laws/Encode.lean ====
section
/-! SUPPORT. The three parts of a stimulus word, the register map in both directions, and what the decoder answers on a
word given by its parts. -/

namespace Sys2Proof

/-! ## The parts of a word, R60 -/

@[simp] theorem stimWord_kind (k : BitVec 2) (f : BitVec 6) (d : Word) : (stimWord k f d).extractLsb' 22 2 = k := by
  unfold stimWord
  ext i hi
  have : i = 0 ∨ i = 1 := by omega
  rcases this with rfl | rfl <;> simp [BitVec.getElem_extractLsb']

@[simp] theorem stimWord_field (k : BitVec 2) (f : BitVec 6) (d : Word) : (stimWord k f d).extractLsb' 16 6 = f := by
  unfold stimWord
  ext i hi
  have : i = 0 ∨ i = 1 ∨ i = 2 ∨ i = 3 ∨ i = 4 ∨ i = 5 := by omega
  rcases this with rfl | rfl | rfl | rfl | rfl | rfl <;> simp [BitVec.getElem_extractLsb']

@[simp] theorem stimWord_data (k : BitVec 2) (f : BitVec 6) (d : Word) : (stimWord k f d).extractLsb' 0 16 = d := by
  unfold stimWord
  ext i hi
  have h1 : i < 22 := by omega
  have h2 : i < 24 := by omega
  simp [BitVec.getElem_extractLsb', h1, h2, hi]

/-- A word is its three parts. -/
theorem stimWord_eta (w : StimWord) :
    stimWord (w.extractLsb' 22 2) (w.extractLsb' 16 6) (w.extractLsb' 0 16) = w := by
  unfold stimWord
  ext i hi
  by_cases h1 : i < 16
  · have h2 : i < 22 := by omega
    simp [h1, h2, BitVec.getLsbD_eq_getElem, hi]
  · by_cases h2 : i < 22
    · have h3 : i - 16 < 6 := by omega
      have h4 : 16 + (i - 16) = i := by omega
      simp [h1, h2, h3, h4, BitVec.getLsbD_eq_getElem, hi]
    · have h3 : i - 22 < 2 := by omega
      have h4 : 22 + (i - 22) = i := by omega
      have h5 : ¬ i - 16 < 6 := by omega
      simp [h1, h2, h3, h4, h5, BitVec.getLsbD_eq_getElem, hi]

/-- A word as a number. -/
theorem stimWord_toNat (k : BitVec 2) (f : BitVec 6) (d : Word) :
    (stimWord k f d).toNat = 0x400000 * k.toNat + 0x10000 * f.toNat + d.toNat := by
  have hf := f.isLt
  have hd := d.isLt
  have hk := k.isLt
  have e1 : (k.setWidth 24 <<< 22 : StimWord).toNat = 2 ^ 22 * k.toNat := by
    simp [Nat.shiftLeft_eq]; omega
  have e2 : (f.setWidth 24 <<< 16 : StimWord).toNat = 2 ^ 16 * f.toNat := by
    simp [Nat.shiftLeft_eq]; omega
  have e3 : (d.setWidth 24 : StimWord).toNat = d.toNat := by simp; omega
  unfold stimWord
  rw [BitVec.toNat_or, BitVec.toNat_or, e1, e2, e3, ← Nat.two_pow_add_eq_or_of_lt (by omega), Nat.or_comm,
    Nat.or_comm, ← Nat.mul_comm]
  have : 2 ^ 22 * k.toNat + 2 ^ 16 * f.toNat = 2 ^ 16 * (64 * k.toNat + f.toNat) := by ring
  rw [Nat.mul_comm, this, ← Nat.two_pow_add_eq_or_of_lt (by omega)]
  ring

/-- The parts of a word as numbers. -/
theorem word_parts (w : StimWord) :
    (w.extractLsb' 22 2).toNat = w.toNat / 0x400000 ∧ (w.extractLsb' 16 6).toNat = w.toNat / 0x10000 % 64 ∧
    (w.extractLsb' 0 16).toNat = w.toNat % 0x10000 := by
  have := w.isLt
  simp [Nat.shiftRight_eq_div_pow]
  omega

/-- The words of the reserved kind. -/
theorem reserved_toNat (payload : BitVec 22) : (Stim.reserved payload).encode.toNat = 0xC00000 + payload.toNat := by
  have h := payload.isLt
  simp only [Stim.encode, BitVec.toNat_or, BitVec.toNat_setWidth]
  rw [Nat.mod_eq_of_lt (by omega)]
  exact (Nat.two_pow_add_eq_or_of_lt (i := 22) h 3).symm

/-! ## The register map, R41 -/

@[simp] theorem regAt_offset (reg : Reg) : regAt reg.offset = some reg := by
  match reg with
  | .ctl | .r | .ex0 | .iv => rfl
  | .cctl n => revert n; decide
  | .ccr n => revert n; decide

theorem offset_of_regAt : ∀ (off : BitVec 6) (reg : Reg), regAt off = some reg → reg.offset = off := by
  have h : ∀ off : BitVec 6, ∀ reg ∈ regAt off, reg.offset = off := by decide
  exact fun off reg => h off reg

/-- Where the map has no register, R94. -/
theorem regAt_eq_none : ∀ off : BitVec 6, off.getLsbD 0 = false →
    (regAt off = none ↔ 0x20 < off.toNat ∧ off.toNat ≠ 0x2E) := by decide

@[simp] theorem busReg_offset (reg : Reg) : busReg reg.offset = .ok reg := by
  have h : reg.offset.getLsbD 0 = false := by
    match reg with
    | .ctl | .r | .ex0 | .iv => rfl
    | .cctl n => revert n; decide
    | .ccr n => revert n; decide
  unfold busReg; rw [h, regAt_offset]; rfl

theorem busReg_ok (off : BitVec 6) (reg : Reg) : busReg off = .ok reg ↔ off = reg.offset := by
  constructor
  · intro h
    unfold busReg at h
    split at h
    · cases h
    · split at h
      · rename_i hr; cases h; exact (offset_of_regAt _ _ hr).symm
      · cases h
  · rintro rfl; exact busReg_offset reg

/-! ## Argument masks -/

/-- No bit in common, bit by bit. -/
theorem and_eq_zero_iff_bits (x m : Word) : x &&& m = 0 ↔ ∀ i, i < 16 → m.getLsbD i = true → x.getLsbD i = false := by
  constructor
  · intro h i _ hm
    have := congrArg (·.getLsbD i) h
    simpa [hm] using this
  · intro h
    ext i hi
    have := h i hi
    simp only [BitVec.getLsbD_eq_getElem hi] at this
    simp only [BitVec.getElem_and, BitVec.ofNat_eq_ofNat, BitVec.getElem_zero]
    cases hm : m[i] <;> simp_all

/-- A bound by a power of two, bit by bit. -/
theorem toNat_lt_two_pow_iff_bits (x : Word) (k : Nat) : x.toNat < 2 ^ k ↔ ∀ i, i < 16 → k ≤ i → x.getLsbD i = false := by
  constructor
  · intro h i _ hk
    exact Nat.testBit_lt_two_pow (lt_of_lt_of_le h (Nat.pow_le_pow_right (by decide) hk))
  · intro h
    refine Nat.lt_pow_two_of_testBit _ fun i hi => ?_
    by_cases h16 : i < 16
    · exact h i h16 hi
    · exact BitVec.getLsbD_of_ge x i (by omega)

/-- The reserved bits of `SRC`'s argument are 0, R62. -/
theorem and_srcMask (x : Word) : x &&& 0xFFFC = 0 ↔ x.toNat < 4 := by
  rw [and_eq_zero_iff_bits, show (4 : Nat) = 2 ^ 2 from rfl, toNat_lt_two_pow_iff_bits]
  have h : ∀ i, i < 16 → ((0xFFFC : Word).getLsbD i = true ↔ 2 ≤ i) := by decide
  exact ⟨fun g i hi hk => g i hi ((h i hi).2 hk), fun g i hi hk => g i hi ((h i hi).1 hk)⟩

/-- The reserved bits of `SYNC`'s argument are 0, R62. -/
theorem and_syncMask (x : Word) : x &&& 0xFFF8 = 0 ↔ x.toNat < 8 := by
  rw [and_eq_zero_iff_bits, show (8 : Nat) = 2 ^ 3 from rfl, toNat_lt_two_pow_iff_bits]
  have h : ∀ i, i < 16 → ((0xFFF8 : Word).getLsbD i = true ↔ 3 ≤ i) := by decide
  exact ⟨fun g i hi hk => g i hi ((h i hi).2 hk), fun g i hi hk => g i hi ((h i hi).1 hk)⟩

/-- The reserved bits of `PIN`'s argument are 0, R62. -/
theorem and_pinMask (x : Word) : x &&& 0xFF8C = 0 ↔ x.toNat < 128 ∧ x.toNat / 4 % 4 = 0 := by
  have hx : x.toNat / 4 % 4 = 0 ↔ x.getLsbD 2 = false ∧ x.getLsbD 3 = false := by
    rw [Machine.bit_eq_decide, Machine.bit_eq_decide, decide_eq_false_iff_not, decide_eq_false_iff_not]
    omega
  rw [and_eq_zero_iff_bits, hx, show (128 : Nat) = 2 ^ 7 from rfl, toNat_lt_two_pow_iff_bits]
  have h : ∀ i, i < 16 → ((0xFF8C : Word).getLsbD i = true ↔ 7 ≤ i ∨ i = 2 ∨ i = 3) := by decide
  constructor
  · intro g
    exact ⟨fun i hi hk => g i hi ((h i hi).2 (.inl hk)), g 2 (by decide) (by decide), g 3 (by decide) (by decide)⟩
  · rintro ⟨g, g2, g3⟩ i hi hm
    rcases (h i hi).1 hm with hk | rfl | rfl
    · exact g i hi hk
    · exact g2
    · exact g3

/-! ## Decoding by parts -/

theorem decodeStim_rd (f : BitVec 6) : decodeStim (stimWord 0 f 0) = (busReg f).map .rd := by
  unfold decodeStim; simp

theorem decodeStim_wr (f : BitVec 6) (d : Word) : decodeStim (stimWord 1 f d) = (busReg f).map (.wr · d) := by
  unfold decodeStim; simp

theorem decodeStim_event (f : BitVec 6) (d : Word) :
    decodeStim (stimWord 2 f d) = decodeEvent (stimWord 2 f d) f d := by
  unfold decodeStim; simp

@[simp] theorem Line.ofBit_code (l : Line) : Line.ofBit (l.code.getLsbD 0) = l := by cases l <;> rfl

/-- The instruction of a stimulus is not a driver operation, and its stimuli are the one stimulus. -/
theorem Stim.toInstr_stims (st : Stim) (v : Word) : st.toInstr.stims v = [st] := by
  match st with
  | .rd .ctl | .rd .r | .rd .ex0 | .rd .iv => rfl
  | .rd (.cctl n) | .rd (.ccr n) => fin_cases n <;> rfl
  | .wr .ctl _ | .wr .r _ | .wr .ex0 _ | .wr .iv _ => rfl
  | .wr (.cctl n) _ | .wr (.ccr n) _ => fin_cases n <;> rfl
  | .reset | .src _ | .pin _ _ _ | .sync _ | .ack0 | .reserved _ => rfl

end Sys2Proof
end

