-- ==== Sys2Proof/Laws/Exec.lean ====
section
/-! SUPPORT. What `exec` answers for each instruction, in terms of the shared operations, and `step` on a fetched word. -/

namespace Sys2Proof.Machine

@[simp] theorem exec_rdCtl (s : State) :
    exec .rdCtl s = .next (rdCtl s) := rfl

@[simp] theorem exec_wrCtl (data : Word) (s : State) :
    exec (.wrCtl data) s = .next (wrCtl data s) := rfl

@[simp] theorem exec_rdCctl0 (s : State) :
    exec .rdCctl0 s = .next (rdCctl 0 s) := rfl

@[simp] theorem exec_wrCctl0 (data : Word) (s : State) :
    exec (.wrCctl0 data) s = .next (wrCctl 0 data s) := rfl

@[simp] theorem exec_rdCctl1 (s : State) :
    exec .rdCctl1 s = .next (rdCctl 1 s) := rfl

@[simp] theorem exec_wrCctl1 (data : Word) (s : State) :
    exec (.wrCctl1 data) s = .next (wrCctl 1 data s) := rfl

@[simp] theorem exec_rdCctl2 (s : State) :
    exec .rdCctl2 s = .next (rdCctl 2 s) := rfl

@[simp] theorem exec_wrCctl2 (data : Word) (s : State) :
    exec (.wrCctl2 data) s = .next (wrCctl 2 data s) := rfl

@[simp] theorem exec_rdCctl3 (s : State) :
    exec .rdCctl3 s = .next (rdCctl 3 s) := rfl

@[simp] theorem exec_wrCctl3 (data : Word) (s : State) :
    exec (.wrCctl3 data) s = .next (wrCctl 3 data s) := rfl

@[simp] theorem exec_rdCctl4 (s : State) :
    exec .rdCctl4 s = .next (rdCctl 4 s) := rfl

@[simp] theorem exec_wrCctl4 (data : Word) (s : State) :
    exec (.wrCctl4 data) s = .next (wrCctl 4 data s) := rfl

@[simp] theorem exec_rdCctl5 (s : State) :
    exec .rdCctl5 s = .next (rdCctl 5 s) := rfl

@[simp] theorem exec_wrCctl5 (data : Word) (s : State) :
    exec (.wrCctl5 data) s = .next (wrCctl 5 data s) := rfl

@[simp] theorem exec_rdCctl6 (s : State) :
    exec .rdCctl6 s = .next (rdCctl 6 s) := rfl

@[simp] theorem exec_wrCctl6 (data : Word) (s : State) :
    exec (.wrCctl6 data) s = .next (wrCctl 6 data s) := rfl

@[simp] theorem exec_rdR (s : State) :
    exec .rdR s = .next (rdR s) := rfl

@[simp] theorem exec_wrR (data : Word) (s : State) :
    exec (.wrR data) s = .next (wrR data s) := rfl

@[simp] theorem exec_rdCcr0 (s : State) :
    exec .rdCcr0 s = .next (rdCcr 0 s) := rfl

@[simp] theorem exec_wrCcr0 (data : Word) (s : State) :
    exec (.wrCcr0 data) s = .next (wrCcr 0 data s) := rfl

@[simp] theorem exec_rdCcr1 (s : State) :
    exec .rdCcr1 s = .next (rdCcr 1 s) := rfl

@[simp] theorem exec_wrCcr1 (data : Word) (s : State) :
    exec (.wrCcr1 data) s = .next (wrCcr 1 data s) := rfl

@[simp] theorem exec_rdCcr2 (s : State) :
    exec .rdCcr2 s = .next (rdCcr 2 s) := rfl

@[simp] theorem exec_wrCcr2 (data : Word) (s : State) :
    exec (.wrCcr2 data) s = .next (wrCcr 2 data s) := rfl

@[simp] theorem exec_rdCcr3 (s : State) :
    exec .rdCcr3 s = .next (rdCcr 3 s) := rfl

@[simp] theorem exec_wrCcr3 (data : Word) (s : State) :
    exec (.wrCcr3 data) s = .next (wrCcr 3 data s) := rfl

@[simp] theorem exec_rdCcr4 (s : State) :
    exec .rdCcr4 s = .next (rdCcr 4 s) := rfl

@[simp] theorem exec_wrCcr4 (data : Word) (s : State) :
    exec (.wrCcr4 data) s = .next (wrCcr 4 data s) := rfl

@[simp] theorem exec_rdCcr5 (s : State) :
    exec .rdCcr5 s = .next (rdCcr 5 s) := rfl

@[simp] theorem exec_wrCcr5 (data : Word) (s : State) :
    exec (.wrCcr5 data) s = .next (wrCcr 5 data s) := rfl

@[simp] theorem exec_rdCcr6 (s : State) :
    exec .rdCcr6 s = .next (rdCcr 6 s) := rfl

@[simp] theorem exec_wrCcr6 (data : Word) (s : State) :
    exec (.wrCcr6 data) s = .next (wrCcr 6 data s) := rfl

@[simp] theorem exec_rdEx0 (s : State) :
    exec .rdEx0 s = .next (rdEx0 s) := rfl

@[simp] theorem exec_wrEx0 (data : Word) (s : State) :
    exec (.wrEx0 data) s = .next (wrEx0 data s) := rfl

@[simp] theorem exec_rdIv (s : State) :
    exec .rdIv s = .next (rdIv s) := rfl

@[simp] theorem exec_wrIv (data : Word) (s : State) :
    exec (.wrIv data) s = .next (wrIv data s) := rfl

@[simp] theorem exec_reset (s : State) :
    exec .reset s = .next (evReset s) := rfl

@[simp] theorem exec_src (source : ClockSource) (s : State) :
    exec (.src source) s = .next (evSrc source s) := rfl

@[simp] theorem exec_pin (n : BitVec 3) (line : Line) (level : Bool) (s : State) :
    exec (.pin n line level) s = .next (evPin n line level s) := rfl

@[simp] theorem exec_sync (n : BitVec 3) (s : State) :
    exec (.sync n) s = .next (evSync n s) := rfl

@[simp] theorem exec_ack0 (s : State) :
    exec .ack0 s = .next (evAck0 s) := rfl

@[simp] theorem exec_reservedKind (payload : BitVec 22) (s : State) :
    exec (.reservedKind payload) s = .next (evReserved payload s) := rfl

@[simp] theorem exec_configClock (source : ClockSource) (divider : PrimaryDivider) (s : State) :
    exec (.configClock source divider) s = .next (driverWrite .ctl (configClockData source divider) s) := rfl

@[simp] theorem exec_setExpansionDivider (e : Nat) (s : State) :
    exec (.setExpansionDivider e) s = .next (driverWrite .ex0 (expansionDividerData e) s) := rfl

@[simp] theorem exec_driverReset (s : State) :
    exec .driverReset s = .next (driverModify .ctl driverResetData s) := rfl

@[simp] theorem exec_upmode (s : State) :
    exec .upmode s = .next (driverModify .ctl upmodeData s) := rfl

@[simp] theorem exec_continuous (s : State) :
    exec .continuous s = .next (driverModify .ctl continuousData s) := rfl

@[simp] theorem exec_stop (s : State) :
    exec .stop s = .next (driverModify .ctl stopData s) := rfl

@[simp] theorem exec_isStopped (s : State) :
    exec .isStopped s = .next (driverRead .ctl (fun v => .truth (v &&& 0x0030 == 0)) s) := rfl

@[simp] theorem exec_overflowFlagRead (s : State) :
    exec .overflowFlagRead s = .next (driverRead .ctl (fun v => .truth (v.getLsbD 0)) s) := rfl

@[simp] theorem exec_overflowFlagClear (s : State) :
    exec .overflowFlagClear s = .next (driverModify .ctl overflowFlagClearData s) := rfl

@[simp] theorem exec_overflowInterruptEnable (s : State) :
    exec .overflowInterruptEnable s = .next (driverModify .ctl overflowInterruptEnableData s) := rfl

@[simp] theorem exec_overflowInterruptDisable (s : State) :
    exec .overflowInterruptDisable s = .next (driverModify .ctl overflowInterruptDisableData s) := rfl

@[simp] theorem exec_chConfigOutputMode (n : Chan) (mode : OutputMode) (s : State) :
    exec (.chConfigOutputMode n mode) s = .next (driverWrite (.cctl n) (configOutputModeData mode) s) := rfl

@[simp] theorem exec_chConfigCaptureMode (n : Chan) (edge : CaptureEdge) (input : CaptureInput) (s : State) :
    exec (.chConfigCaptureMode n edge input) s = .next (driverWrite (.cctl n) (configCaptureModeData edge input) s) := rfl

@[simp] theorem exec_chSetValue (n : Chan) (x : Word) (s : State) :
    exec (.chSetValue n x) s = .next (driverWrite (.ccr n) x s) := rfl

@[simp] theorem exec_chGetValue (n : Chan) (s : State) :
    exec (.chGetValue n) s = .next (driverRead (.ccr n) .value s) := rfl

@[simp] theorem exec_chFlagRead (n : Chan) (s : State) :
    exec (.chFlagRead n) s = .next (driverRead (.cctl n) (fun v => .truth (v.getLsbD 0)) s) := rfl

@[simp] theorem exec_chFlagClear (n : Chan) (s : State) :
    exec (.chFlagClear n) s = .next (driverModify (.cctl n) flagClearData s) := rfl

@[simp] theorem exec_chEnable (n : Chan) (s : State) :
    exec (.chEnable n) s = .next (driverModify (.cctl n) enableData s) := rfl

@[simp] theorem exec_chDisable (n : Chan) (s : State) :
    exec (.chDisable n) s = .next (driverModify (.cctl n) disableData s) := rfl

@[simp] theorem exec_chCaptureOverflowAndFlagRead (n : Chan) (s : State) :
    exec (.chCaptureOverflowAndFlagRead n) s = .next (driverRead (.cctl n) (fun v => .pair (v.getLsbD 1) (v.getLsbD 0)) s) := rfl

@[simp] theorem exec_chClearOverflowAndFlag (n : Chan) (s : State) :
    exec (.chClearOverflowAndFlag n) s = .next (driverModify (.cctl n) clearOverflowAndFlagData s) := rfl

@[simp] theorem exec_readVector (s : State) :
    exec .readVector s = .next (driverRead .iv .value s) := rfl

/-- The instruction of a stimulus does what the stimulus does. -/
theorem exec_toInstr (st : Stim) (s : State) : exec st.toInstr s = .next (applyStim st s) := by
  match st with
  | .rd .ctl | .rd .r | .rd .ex0 | .rd .iv => rfl
  | .rd (.cctl n) | .rd (.ccr n) => fin_cases n <;> rfl
  | .wr .ctl _ | .wr .r _ | .wr .ex0 _ | .wr .iv _ => rfl
  | .wr (.cctl n) _ | .wr (.ccr n) _ => fin_cases n <;> rfl
  | .reset | .src _ | .pin _ _ _ | .sync _ | .ack0 | .reserved _ => rfl

/-- No instruction stops: `exec` answers a next state for every one. -/
theorem exec_next (i : Instr) (s : State) : ∃ t, exec i s = .next t := by
  cases i <;> exact ⟨_, rfl⟩

/-- A step at a fetched word carries the word out, refused or not. -/
theorem step_of_fetch (s : State) (w : StimWord) (h : fetch s = some w) : step s = .next (applyWord w s) := by
  cases hd : decodeStim w with
  | ok st => simp only [step, applyWord, decode, h, hd, Except.map, exec_toInstr]
  | error e => simp only [step, applyWord, decode, h, hd, Except.map]

/-- A step with nothing to fetch ends the run. -/
theorem step_of_no_fetch (s : State) (h : fetch s = none) : step s = .fault .endOfStimuli := by
  unfold step; rw [h]

/-- What a step that has a next state did: it carried out the word at `pc`. -/
theorem step_next {s t : State} (h : step s = .next t) : ∃ w, fetch s = some w ∧ t = applyWord w s := by
  cases hf : fetch s with
  | none => rw [step_of_no_fetch s hf] at h; cases h
  | some w => rw [step_of_fetch s w hf] at h; exact ⟨w, rfl, by simpa using h.symm⟩

end Sys2Proof.Machine
end

