-- ==== Sys2Proof/Laws/Ops.lean ====
section
/-! SUPPORT. For each shared operation, one lemma that says all it can do; callers cite it and do not unfold. -/

namespace Sys2Proof.Machine

/-! ## Compare role -/

/-- One channel's part of a tick, in terms of the output table. -/
theorem compareChannel_eq (new : Word) (equ0 : Bool) (c : Channel) :
    compareChannel new equ0 c =
      if c.cap = false then
        { c with
          ccifg := c.ccifg || decide (new = c.ccr)
          scci := if decide (new = c.ccr) then cciSel c else c.scci
          outSig := outputAfter c.outmod (decide (new = c.ccr)) equ0 c.outSig }
      else c := by
  rcases c with ⟨cm, ccis, scs, scci, cap, outmod, ccie, out, cov, ccifg, ccr, outSig, a, b, req, unread⟩
  by_cases h : new = ccr <;> cases cap <;> cases outmod <;> cases equ0 <;>
    simp [compareChannel, outMatch, outTop, outputAfter, h, cciSel]

/-- A channel after a tick. -/
theorem compareStep_chan (s : State) (new : Word) (t : Timer) (h : t.chans = s.timer.chans) (n : Chan) :
    (compareStep s.cfg new t).chan n = channelAfterTick s new n := by
  have hc : ∀ m, t.chan m = s.timer.chan m := fun m => by simp only [Timer.chan, h]
  simp only [compareStep, Timer.mapWired_chan, compareChannel_eq, channelAfterTick, hc]
  by_cases hw : wired s.cfg n = true <;> by_cases hk : (s.timer.chan n).cap = false <;> simp [hw, hk]

/-! ## Capture role -/

/-- An edge decision, as a proposition. -/
theorem edge_iff (cap : Bool) (cm : CaptureEdge) (old new : Bool) :
    (cap && edgeHit cm old new) = true ↔ SelectedEdge cap cm old new := by
  unfold SelectedEdge
  cases cap <;> cases cm <;> cases old <;> cases new <;> simp [edgeHit]

/-- A change of the selected level does what `EdgeOutcome` says. -/
theorem detectChange_outcome (fv : Word) (old : Bool) (c : Channel) : EdgeOutcome fv old c (detectChange fv old c) := by
  have hsame : ∀ x cap cm, SelectedEdge cap cm x x → False := by
    intro x cap cm h
    rw [← edge_iff] at h
    revert h; cases cap <;> cases cm <;> cases x <;> simp [edgeHit]
  unfold detectChange edgeDetect trigger capture EdgeOutcome
  rw [← edge_iff]
  by_cases hne : cciSel c = old
  · have hno : (c.cap && edgeHit c.cm old (cciSel c)) = false := by
      rw [← Bool.not_eq_true, edge_iff, hne]; exact hsame _ _ _
    simp [hne ▸ hno, hne]
  · by_cases h : (c.cap && edgeHit c.cm old (cciSel c)) = true <;> by_cases hs : c.scs = true <;> simp_all

/-- The outcome of a level change is one channel. -/
theorem EdgeOutcome.unique {fv : Word} {old : Bool} {c d e : Channel} (hd : EdgeOutcome fv old c d)
    (he : EdgeOutcome fv old c e) : d = e := by
  by_cases h : SelectedEdge c.cap c.cm old (cciSel c)
  · cases hs : c.scs
    · rw [hd.2.2 h hs, he.2.2 h hs]
    · rw [hd.2.1 h hs, he.2.1 h hs]
  · rw [hd.1 h, he.1 h]

/-- What a level change cannot touch. -/
theorem detectChange_frame (fv : Word) (old : Bool) (c : Channel) :
    (detectChange fv old c).outmod = c.outmod ∧ (detectChange fv old c).out = c.out ∧
    (detectChange fv old c).outSig = c.outSig ∧ (detectChange fv old c).cciA = c.cciA ∧
    (detectChange fv old c).cciB = c.cciB ∧ (detectChange fv old c).ccie = c.ccie ∧
    (detectChange fv old c).cap = c.cap ∧ (c.cov = true → (detectChange fv old c).cov = true) ∧
    (c.ccifg = true → (detectChange fv old c).ccifg = true) := by
  have h := detectChange_outcome fv old c
  by_cases he : SelectedEdge c.cap c.cm old (cciSel c)
  · cases hs : c.scs
    · rw [h.2.2 he hs]; simp +contextual
    · rw [h.2.1 he hs]; simp
  · rw [h.1 he]; simp

/-! ## Divider chain -/

theorem edgesPerTick_pos (t : Timer) : 0 < edgesPerTick t := by
  unfold edgesPerTick divisor; cases t.id <;> simp [PrimaryDivider.code]

theorem edgesPerTick_le (t : Timer) : edgesPerTick t ≤ 64 := by
  unfold edgesPerTick divisor
  have := t.taidex.isLt
  cases t.id <;> simp [PrimaryDivider.code] <;> omega

/-- The reload value is `N() - 1`, nothing cut off. -/
theorem prescReload_toNat (t : Timer) : (prescReload t).toNat = edgesPerTick t - 1 := by
  have := edgesPerTick_le t
  simp only [prescReload, BitVec.toNat_ofNat]
  exact Nat.mod_eq_of_lt (by omega)

/-- The reload value, from the two divider settings (R25, R110). -/
theorem prescReload_add_one (t : Timer) :
    (prescReload t).toNat + 1 = 2 ^ t.id.code.toNat * (t.taidex.toNat + 1) := by
  rw [prescReload_toNat, Nat.sub_add_cancel (edgesPerTick_pos _)]
  simp only [edgesPerTick, divisor, Nat.one_shiftLeft]

/-! ## Arbiter -/

theorem vectorChans_find (P : Chan → Bool) (n : Chan) (h0 : n ≠ 0) (hn : P n = true)
    (hlow : ∀ m, m ≠ 0 → m < n → P m = false) : vectorChans.find? P = some n := by
  have hsplit : ∀ k : Chan, k ≠ 0 →
      vectorChans = vectorChans.filter (· < k) ++ k :: vectorChans.filter (k < ·) := by decide
  have hnz : ∀ m ∈ vectorChans, m ≠ 0 := by decide
  rw [List.find?_eq_some_iff_append]
  refine ⟨hn, _, _, hsplit n h0, fun m hm => ?_⟩
  rw [List.mem_filter] at hm
  simp [hlow m (hnz m hm.1) (by simpa using hm.2)]

theorem sharedPending_iff (s : State) (n : Chan) (h0 : n ≠ 0) :
    (wired s.cfg n && channelPending (s.timer.chan n)) = true ↔ SharedPending s n := by
  simp [SharedPending, channelPending, h0]

/-- The vector register names channel `n` when it is pending on the shared line and no lower channel is. -/
theorem highestPending_channel (s : State) (n : Chan) (hp : SharedPending s n) (hl : ∀ m, m < n → ¬ SharedPending s m) :
    highestPending s.cfg s.timer = some (.channel n) := by
  have hfind := vectorChans_find (fun n => wired s.cfg n && channelPending (s.timer.chan n)) n hp.1
    ((sharedPending_iff s n hp.1).2 hp)
    (fun m hm hlt => by simpa [hl m hlt] using (sharedPending_iff s m hm).not)
  unfold highestPending; rw [hfind]

/-- With no channel pending on the shared line the vector register names the overflow or nothing. -/
theorem highestPending_none (s : State) (hl : ∀ m, ¬ SharedPending s m) :
    highestPending s.cfg s.timer = if overflowPending s.timer then some .overflow else none := by
  have hfind : vectorChans.find? (fun n => wired s.cfg n && channelPending (s.timer.chan n)) = none := by
    rw [List.find?_eq_none]
    intro m hm
    have hnz : ∀ m ∈ vectorChans, m ≠ 0 := by decide
    exact fun h => hl m ((sharedPending_iff s m (hnz m hm)).1 h)
  unfold highestPending; rw [hfind]

/-- Either some lowest channel is pending on the shared line, or none is. -/
theorem sharedPending_cases (s : State) :
    (∃ n, SharedPending s n ∧ ∀ m, m < n → ¬ SharedPending s m) ∨ ∀ m, ¬ SharedPending s m := by
  classical
  by_cases h : ∃ n : Chan, SharedPending s n
  · left
    obtain ⟨n, hn, hmin⟩ := WellFounded.has_min (r := fun a b : Chan => a < b) wellFounded_lt {n | SharedPending s n} h
    exact ⟨n, hn, fun m hm hp => hmin m hp hm⟩
  · right; exact fun m hm => h ⟨m, hm⟩

/-! ## Register writes -/

/-- Following the `OUT` bit touches the output only. -/
theorem followOut_eq (c : Channel) :
    followOut c = { c with outSig := if c.outmod = .out then c.out else c.outSig } := by
  unfold followOut; split <;> simp_all

/-- What a `CTL` write leaves alone. -/
theorem writeCtl_frame (d : Word) (mc : RunMode) (t : Timer) :
    (writeCtl d mc t).chans = t.chans ∧ (writeCtl d mc t).taidex = t.taidex ∧ (writeCtl d mc t).mc = mc ∧
    (writeCtl d mc t).taifg = d.getLsbD 0 := by
  unfold writeCtl storeCtl; split <;> simp

/-- What `RESET` leaves of a channel. -/
theorem resetTimer_chan (cfg : Cfg) (t : Timer) (n : Chan) :
    (resetTimer cfg t).chan n = if wired cfg n then resetChannel (t.chan n) else t.chan n := by
  have h : (resetTimer cfg t).chan n = (t.mapWired cfg resetChannel).chan n := rfl
  rw [h, Timer.mapWired_chan]

/-- The wired channel of an event, and when there is none. -/
theorem eventChan_eq (cfg : Cfg) (n : BitVec 3) (k : Chan) :
    eventChan cfg n = some k ↔ n.toNat = k.val ∧ wired cfg k = true := by
  unfold eventChan
  split
  · rename_i h
    split
    · rename_i hw
      simp only [Option.some.injEq, Fin.ext_iff]
      constructor
      · intro hk; exact ⟨hk, by rw [← Fin.ext_iff (a := ⟨n.toNat, h⟩) |>.2 hk]; exact hw⟩
      · exact fun hk => hk.1
    · rename_i hw
      simp only [reduceCtorEq, false_iff, not_and, Bool.not_eq_true]
      intro hk
      have : (⟨n.toNat, h⟩ : Chan) = k := Fin.ext hk
      rw [← this]; simpa using hw
  · rename_i h
    simp only [reduceCtorEq, false_iff, not_and]
    intro hk; exact absurd (hk ▸ k.isLt) h

theorem eventChan_none (cfg : Cfg) (n : BitVec 3) : eventChan cfg n = none ↔ cfg.lastCh.val < n.toNat := by
  unfold eventChan wired nCh
  have := cfg.lastCh.isLt
  split
  · simp
  · simp; omega

end Sys2Proof.Machine
end

