-- ==== Sys2Proof/Laws/PerInstr.lean ====
section
/-! SUPPORT. Statements about every instruction, one lemma per constructor. -/

namespace Sys2Proof.Laws.EncodedLength

/-- How many words an instruction is: one word for a stimulus, one or two for a driver operation; the word that comes first
is known before anything is read (R60, R70, R73). -/
def Statement (i : Instr) : Prop :=
  ∀ v : Word,
    (encode i v).head? = (encode i 0).head? ∧
    ((encode i v).length = 1 ∨ (i.isDriverOp = true ∧ (encode i v).length = 2))

theorem rdCtl : Statement .rdCtl := fun _ => ⟨rfl, .inl rfl⟩

theorem wrCtl (data : Word) : Statement (.wrCtl data) := fun _ => ⟨rfl, .inl rfl⟩

theorem rdCctl0 : Statement .rdCctl0 := fun _ => ⟨rfl, .inl rfl⟩

theorem wrCctl0 (data : Word) : Statement (.wrCctl0 data) := fun _ => ⟨rfl, .inl rfl⟩

theorem rdCctl1 : Statement .rdCctl1 := fun _ => ⟨rfl, .inl rfl⟩

theorem wrCctl1 (data : Word) : Statement (.wrCctl1 data) := fun _ => ⟨rfl, .inl rfl⟩

theorem rdCctl2 : Statement .rdCctl2 := fun _ => ⟨rfl, .inl rfl⟩

theorem wrCctl2 (data : Word) : Statement (.wrCctl2 data) := fun _ => ⟨rfl, .inl rfl⟩

theorem rdCctl3 : Statement .rdCctl3 := fun _ => ⟨rfl, .inl rfl⟩

theorem wrCctl3 (data : Word) : Statement (.wrCctl3 data) := fun _ => ⟨rfl, .inl rfl⟩

theorem rdCctl4 : Statement .rdCctl4 := fun _ => ⟨rfl, .inl rfl⟩

theorem wrCctl4 (data : Word) : Statement (.wrCctl4 data) := fun _ => ⟨rfl, .inl rfl⟩

theorem rdCctl5 : Statement .rdCctl5 := fun _ => ⟨rfl, .inl rfl⟩

theorem wrCctl5 (data : Word) : Statement (.wrCctl5 data) := fun _ => ⟨rfl, .inl rfl⟩

theorem rdCctl6 : Statement .rdCctl6 := fun _ => ⟨rfl, .inl rfl⟩

theorem wrCctl6 (data : Word) : Statement (.wrCctl6 data) := fun _ => ⟨rfl, .inl rfl⟩

theorem rdR : Statement .rdR := fun _ => ⟨rfl, .inl rfl⟩

theorem wrR (data : Word) : Statement (.wrR data) := fun _ => ⟨rfl, .inl rfl⟩

theorem rdCcr0 : Statement .rdCcr0 := fun _ => ⟨rfl, .inl rfl⟩

theorem wrCcr0 (data : Word) : Statement (.wrCcr0 data) := fun _ => ⟨rfl, .inl rfl⟩

theorem rdCcr1 : Statement .rdCcr1 := fun _ => ⟨rfl, .inl rfl⟩

theorem wrCcr1 (data : Word) : Statement (.wrCcr1 data) := fun _ => ⟨rfl, .inl rfl⟩

theorem rdCcr2 : Statement .rdCcr2 := fun _ => ⟨rfl, .inl rfl⟩

theorem wrCcr2 (data : Word) : Statement (.wrCcr2 data) := fun _ => ⟨rfl, .inl rfl⟩

theorem rdCcr3 : Statement .rdCcr3 := fun _ => ⟨rfl, .inl rfl⟩

theorem wrCcr3 (data : Word) : Statement (.wrCcr3 data) := fun _ => ⟨rfl, .inl rfl⟩

theorem rdCcr4 : Statement .rdCcr4 := fun _ => ⟨rfl, .inl rfl⟩

theorem wrCcr4 (data : Word) : Statement (.wrCcr4 data) := fun _ => ⟨rfl, .inl rfl⟩

theorem rdCcr5 : Statement .rdCcr5 := fun _ => ⟨rfl, .inl rfl⟩

theorem wrCcr5 (data : Word) : Statement (.wrCcr5 data) := fun _ => ⟨rfl, .inl rfl⟩

theorem rdCcr6 : Statement .rdCcr6 := fun _ => ⟨rfl, .inl rfl⟩

theorem wrCcr6 (data : Word) : Statement (.wrCcr6 data) := fun _ => ⟨rfl, .inl rfl⟩

theorem rdEx0 : Statement .rdEx0 := fun _ => ⟨rfl, .inl rfl⟩

theorem wrEx0 (data : Word) : Statement (.wrEx0 data) := fun _ => ⟨rfl, .inl rfl⟩

theorem rdIv : Statement .rdIv := fun _ => ⟨rfl, .inl rfl⟩

theorem wrIv (data : Word) : Statement (.wrIv data) := fun _ => ⟨rfl, .inl rfl⟩

theorem reset : Statement .reset := fun _ => ⟨rfl, .inl rfl⟩

theorem src (source : ClockSource) : Statement (.src source) := fun _ => ⟨rfl, .inl rfl⟩

theorem pin (n : BitVec 3) (line : Line) (level : Bool) : Statement (.pin n line level) := fun _ => ⟨rfl, .inl rfl⟩

theorem sync (n : BitVec 3) : Statement (.sync n) := fun _ => ⟨rfl, .inl rfl⟩

theorem ack0 : Statement .ack0 := fun _ => ⟨rfl, .inl rfl⟩

theorem reservedKind (payload : BitVec 22) : Statement (.reservedKind payload) := fun _ => ⟨rfl, .inl rfl⟩

theorem configClock (source : ClockSource) (divider : PrimaryDivider) : Statement (.configClock source divider) := fun _ => ⟨rfl, .inl rfl⟩

theorem setExpansionDivider (e : Nat) : Statement (.setExpansionDivider e) := fun _ => ⟨rfl, .inl rfl⟩

theorem driverReset : Statement .driverReset := fun _ => ⟨rfl, .inr ⟨rfl, rfl⟩⟩

theorem upmode : Statement .upmode := fun _ => ⟨rfl, .inr ⟨rfl, rfl⟩⟩

theorem continuous : Statement .continuous := fun _ => ⟨rfl, .inr ⟨rfl, rfl⟩⟩

theorem stop : Statement .stop := fun _ => ⟨rfl, .inr ⟨rfl, rfl⟩⟩

theorem isStopped : Statement .isStopped := fun _ => ⟨rfl, .inl rfl⟩

theorem overflowFlagRead : Statement .overflowFlagRead := fun _ => ⟨rfl, .inl rfl⟩

theorem overflowFlagClear : Statement .overflowFlagClear := fun _ => ⟨rfl, .inr ⟨rfl, rfl⟩⟩

theorem overflowInterruptEnable : Statement .overflowInterruptEnable := fun _ => ⟨rfl, .inr ⟨rfl, rfl⟩⟩

theorem overflowInterruptDisable : Statement .overflowInterruptDisable := fun _ => ⟨rfl, .inr ⟨rfl, rfl⟩⟩

theorem chConfigOutputMode (n : Chan) (mode : OutputMode) : Statement (.chConfigOutputMode n mode) := fun _ => ⟨rfl, .inl rfl⟩

theorem chConfigCaptureMode (n : Chan) (edge : CaptureEdge) (input : CaptureInput) : Statement (.chConfigCaptureMode n edge input) := fun _ => ⟨rfl, .inl rfl⟩

theorem chSetValue (n : Chan) (x : Word) : Statement (.chSetValue n x) := fun _ => ⟨rfl, .inl rfl⟩

theorem chGetValue (n : Chan) : Statement (.chGetValue n) := fun _ => ⟨rfl, .inl rfl⟩

theorem chFlagRead (n : Chan) : Statement (.chFlagRead n) := fun _ => ⟨rfl, .inl rfl⟩

theorem chFlagClear (n : Chan) : Statement (.chFlagClear n) := fun _ => ⟨rfl, .inr ⟨rfl, rfl⟩⟩

theorem chEnable (n : Chan) : Statement (.chEnable n) := fun _ => ⟨rfl, .inr ⟨rfl, rfl⟩⟩

theorem chDisable (n : Chan) : Statement (.chDisable n) := fun _ => ⟨rfl, .inr ⟨rfl, rfl⟩⟩

theorem chCaptureOverflowAndFlagRead (n : Chan) : Statement (.chCaptureOverflowAndFlagRead n) := fun _ => ⟨rfl, .inl rfl⟩

theorem chClearOverflowAndFlag (n : Chan) : Statement (.chClearOverflowAndFlag n) := fun _ => ⟨rfl, .inr ⟨rfl, rfl⟩⟩

theorem readVector : Statement .readVector := fun _ => ⟨rfl, .inl rfl⟩

end Sys2Proof.Laws.EncodedLength
end

