-- ==== Sys2Proof/Laws/Run.lean ====
section
/-! SUPPORT. What every stimulus does to the bookkeeping of a run, said once, and carried to words, gaps and steps. -/

namespace Sys2Proof.Machine

/-! ## The rows by channel -/

theorem exec_cctlReads {p : Chan × Instr} (hp : p ∈ cctlReads) (s : State) : exec p.2 s = .next (rdCctl p.1 s) := by
  simp only [cctlReads, List.mem_cons, List.not_mem_nil, or_false] at hp
  rcases hp with rfl | rfl | rfl | rfl | rfl | rfl | rfl <;> rfl

theorem exec_cctlWrites {d : Word} {p : Chan × Instr} (hp : p ∈ cctlWrites d) (s : State) :
    exec p.2 s = .next (wrCctl p.1 d s) := by
  simp only [cctlWrites, List.mem_cons, List.not_mem_nil, or_false] at hp
  rcases hp with rfl | rfl | rfl | rfl | rfl | rfl | rfl <;> rfl

theorem exec_ccrReads {p : Chan × Instr} (hp : p ∈ ccrReads) (s : State) : exec p.2 s = .next (rdCcr p.1 s) := by
  simp only [ccrReads, List.mem_cons, List.not_mem_nil, or_false] at hp
  rcases hp with rfl | rfl | rfl | rfl | rfl | rfl | rfl <;> rfl

theorem exec_ccrWrites {d : Word} {p : Chan × Instr} (hp : p ∈ ccrWrites d) (s : State) :
    exec p.2 s = .next (wrCcr p.1 d s) := by
  simp only [ccrWrites, List.mem_cons, List.not_mem_nil, or_false] at hp
  rcases hp with rfl | rfl | rfl | rfl | rfl | rfl | rfl <;> rfl

theorem exec_ctlModifies {p : Instr × (Word → Word)} (hp : p ∈ ctlModifies) (s : State) :
    exec p.1 s = .next (driverModify .ctl p.2 s) := by
  simp only [ctlModifies, List.mem_cons, List.not_mem_nil, or_false] at hp
  rcases hp with rfl | rfl | rfl | rfl | rfl | rfl | rfl <;> rfl

theorem exec_cctlModifies {n : Chan} {p : Instr × (Word → Word)} (hp : p ∈ cctlModifies n) (s : State) :
    exec p.1 s = .next (driverModify (.cctl n) p.2 s) := by
  simp only [cctlModifies, List.mem_cons, List.not_mem_nil, or_false] at hp
  rcases hp with rfl | rfl | rfl | rfl <;> rfl

/-- A read-modify-write of `CTL`: the data is computed from the register as the read found it. -/
theorem driverModify_ctl (f : Word → Word) (s : State) :
    driverModify .ctl f s =
      { wrCtl (f (ctlWord s.timer)) (fillGap { s with pc := s.pc + 1, rdata := some (ctlWord s.timer) }) with
        result := none } := rfl

/-- A read-modify-write of a wired channel's control register. -/
theorem driverModify_cctl (n : Chan) (f : Word → Word) (s : State) (h : wired s.cfg n = true) :
    driverModify (.cctl n) f s =
      { wrCctl n (f (cctlWord (s.timer.chan n)))
          (fillGap { s with pc := s.pc + 1, rdata := some (cctlWord (s.timer.chan n)) }) with result := none } := by
  have hr : busRead (.cctl n) s = answer (cctlWord (s.timer.chan n)) s.timer s := by
    show rdCctl n s = _; simp only [rdCctl, h, if_true]
  unfold driverModify; rw [hr]; rfl

/-! ## Bookkeeping -/

/-- What one stimulus does besides its effect on the instance: it moves `pc` on by 1, keeps the configuration, the stimulus
list, the gaps and the result, and either completes or is refused with the instance unchanged (R12, R215). -/
def OneStimulus (s t : State) : Prop :=
  t.cfg = s.cfg ∧ t.stimuli = s.stimuli ∧ t.gaps = s.gaps ∧ t.result = s.result ∧ t.pc = s.pc + 1 ∧
  ((t.refused = s.refused ∧ t.refusals = s.refusals) ∨
    ∃ cause, t.refused = true ∧ t.refusals = s.refusals ++ [(cause, s.pc)] ∧ t.timer = s.timer)

theorem complete_one (u : Timer) (s : State) : OneStimulus s (complete u s) := ⟨rfl, rfl, rfl, rfl, rfl, .inl ⟨rfl, rfl⟩⟩

theorem answer_one (v : Word) (u : Timer) (s : State) : OneStimulus s (answer v u s) :=
  ⟨rfl, rfl, rfl, rfl, rfl, .inl ⟨rfl, rfl⟩⟩

theorem refuse_one (cause : RefusalCause) (s : State) : OneStimulus s (refuse cause s) :=
  ⟨rfl, rfl, rfl, rfl, rfl, .inr ⟨cause, rfl, rfl, rfl⟩⟩

theorem busRead_one (reg : Reg) (s : State) : OneStimulus s (busRead reg s) := by
  match reg with
  | .ctl | .r | .ex0 | .iv => exact answer_one _ _ _
  | .cctl n => show OneStimulus s (rdCctl n s); unfold rdCctl; split <;> first | exact answer_one _ _ _ | exact refuse_one _ _
  | .ccr n => show OneStimulus s (rdCcr n s); unfold rdCcr; split <;> first | exact answer_one _ _ _ | exact refuse_one _ _

theorem busWrite_one (reg : Reg) (d : Word) (s : State) : OneStimulus s (busWrite reg d s) := by
  match reg with
  | .ctl => show OneStimulus s (wrCtl d s); unfold wrCtl; split <;> first | exact complete_one _ _ | exact refuse_one _ _
  | .r | .ex0 | .iv => exact complete_one _ _
  | .cctl n =>
    show OneStimulus s (wrCctl n d s)
    unfold wrCctl
    split
    · exact complete_one _ { s with draws := s.draws + 1 }
    · exact refuse_one _ _
  | .ccr n => show OneStimulus s (wrCcr n d s); unfold wrCcr; split <;> first | exact complete_one _ _ | exact refuse_one _ _

theorem applyStim_one (st : Stim) (s : State) : OneStimulus s (applyStim st s) := by
  match st with
  | .rd reg => exact busRead_one reg s
  | .wr reg d => exact busWrite_one reg d s
  | .reset | .src _ | .ack0 => exact complete_one _ _
  | .pin n l v =>
    show OneStimulus s (evPin n l v s)
    unfold evPin
    split
    · exact complete_one _ { s with draws := s.draws + 1 }
    · exact refuse_one _ _
  | .sync n => show OneStimulus s (evSync n s); unfold evSync; split <;> first | exact complete_one _ _ | exact refuse_one _ _
  | .reserved _ => exact refuse_one _ _

theorem applyWord_one (w : StimWord) (s : State) : OneStimulus s (applyWord w s) := by
  unfold applyWord; split
  · exact applyStim_one _ _
  · exact refuse_one _ _

/-- Words carried out keep the configuration, the list, the gaps and the result, and move `pc` on by their number. -/
theorem applyWords_frame (ws : List StimWord) (s : State) :
    (applyWords ws s).cfg = s.cfg ∧ (applyWords ws s).stimuli = s.stimuli ∧ (applyWords ws s).gaps = s.gaps ∧
    (applyWords ws s).result = s.result ∧ (applyWords ws s).pc = s.pc + ws.length := by
  induction ws generalizing s with
  | nil => exact ⟨rfl, rfl, rfl, rfl, rfl⟩
  | cons w ws ih =>
    obtain ⟨h1, h2, h3, h4, h5, -⟩ := applyWord_one w s
    obtain ⟨i1, i2, i3, i4, i5⟩ := ih (applyWord w s)
    exact ⟨i1.trans h1, i2.trans h2, i3.trans h3, i4.trans h4, by
      show (applyWords ws (applyWord w s)).pc = _
      rw [i5, h5, List.length_cons]; omega⟩

theorem applyWords_append (a b : List StimWord) (s : State) :
    applyWords (a ++ b) s = applyWords b (applyWords a s) := by
  induction a generalizing s with
  | nil => rfl
  | cons w a ih => exact ih _

/-- Stimuli neither read nor write the gaps and the result. -/
theorem applyStim_model_fields (st : Stim) (s : State) (g : List (List StimWord)) (r : Option OpResult) :
    applyStim st { s with gaps := g, result := r } = { applyStim st s with gaps := g, result := r } := by
  match st with
  | .rd .ctl | .rd .r | .rd .ex0 | .rd .iv | .wr .r _ | .wr .ex0 _ | .wr .iv _ | .reset | .src _ | .ack0 | .reserved _ =>
    rfl
  | .rd (.cctl n) =>
    show rdCctl n _ = { rdCctl n s with gaps := g, result := r }; unfold rdCctl; dsimp only; split <;> rfl
  | .rd (.ccr n) =>
    show rdCcr n _ = { rdCcr n s with gaps := g, result := r }; unfold rdCcr; dsimp only; split <;> rfl
  | .wr (.cctl n) d =>
    show wrCctl n d _ = { wrCctl n d s with gaps := g, result := r }; unfold wrCctl; dsimp only; split <;> rfl
  | .wr (.ccr n) d =>
    show wrCcr n d _ = { wrCcr n d s with gaps := g, result := r }; unfold wrCcr; dsimp only; split <;> rfl
  | .wr .ctl d =>
    show wrCtl d _ = { wrCtl d s with gaps := g, result := r }; unfold wrCtl; split <;> rfl
  | .pin n l v =>
    show evPin n l v _ = { evPin n l v s with gaps := g, result := r }; unfold evPin; dsimp only; split <;> rfl
  | .sync n =>
    show evSync n _ = { evSync n s with gaps := g, result := r }; unfold evSync; dsimp only; split <;> rfl

theorem applyWords_model_fields (ws : List StimWord) (s : State) (g : List (List StimWord)) (r : Option OpResult) :
    applyWords ws { s with gaps := g, result := r } = { applyWords ws s with gaps := g, result := r } := by
  have hw : ∀ (w : StimWord) (s : State),
      applyWord w { s with gaps := g, result := r } = { applyWord w s with gaps := g, result := r } := by
    intro w s; unfold applyWord; split
    · exact applyStim_model_fields _ _ _ _
    · rfl
  induction ws generalizing s with
  | nil => rfl
  | cons w ws ih => simp only [applyWords, hw, ih]

/-- A run over the stimuli at `pc` carries the words out in order. -/
theorem run_words (ws : List StimWord) (s : State) (h : (s.stimuli.drop s.pc).take ws.length = ws) :
    core.run ws.length s = .next (applyWords ws s) := by
  induction ws generalizing s with
  | nil => rfl
  | cons w ws ih =>
    cases hd : s.stimuli.drop s.pc with
    | nil => rw [hd] at h; simp at h
    | cons a l =>
      rw [hd] at h
      simp only [List.length_cons, List.take_succ_cons, List.cons.injEq] at h
      have hf : fetch s = some w := by
        unfold fetch; rw [← List.head?_drop, hd, h.1]; rfl
      have hs : core.step s = .next (applyWord w s) := step_of_fetch s w hf
      simp only [List.length_cons, Host.Core.run]
      rw [hs]
      obtain ⟨-, h2, -, -, h5, -⟩ := applyWord_one w s
      apply ih
      rw [h2, h5, ← List.tail_drop, hd]
      exact h.2

/-- What falls between the halves of a driver operation does not change the configuration. -/
theorem fillGap_cfg (s : State) : (fillGap s).cfg = s.cfg := by
  unfold fillGap; split
  · rfl
  · exact (applyWords_frame _ _).1

/-- A driver operation with nothing between its halves. -/
@[simp] theorem fillGap_empty (s : State) (h : s.gaps = []) : fillGap s = s := by
  unfold fillGap; rw [h]

/-- What every step does to the bookkeeping of the run. -/
theorem step_one {s t : State} (h : step s = .next t) : OneStimulus s t := by
  obtain ⟨w, -, rfl⟩ := step_next h
  exact applyWord_one w s

end Sys2Proof.Machine
end

