-- ==== Sys2Proof/Tests/Slice0.lean ====
section
/-! SUPPORT. The author's own tests. Every expected value is the spec's: its encodings (30_encoding.md), its test vectors
(95_test_vectors.md, named in the comments) or a hand calculation from the rule named. The last part gives, for every
statement with hypotheses, a concrete state and operands that meet them. -/

namespace Sys2Proof.Tests

open Sys2Proof.Machine

/-! ## Well-formed instructions: the one operand check, R115 -/

theorem test_divisor_zero_is_ill_formed : (Instr.setExpansionDivider 0).wellFormed = false := by decide
theorem test_divisor_nine_is_ill_formed : (Instr.setExpansionDivider 9).wellFormed = false := by decide
theorem test_divisor_one_and_eight_are_well_formed :
    (Instr.setExpansionDivider 1).wellFormed = true ∧ (Instr.setExpansionDivider 8).wellFormed = true := by decide

/-! ## Words written out from the encodings (R41, R60 to R62) decode to their instructions

Bits 23:22 the kind (00 read, 01 write, 10 event, 11 reserved), 21:16 the offset or event code, 15:0 the data. -/

theorem test_decode_rd_timer :
    decode 0b00_000000_0000000000000000 = .ok .rdCtl ∧ decode 0b00_010000_0000000000000000 = .ok .rdR ∧
    decode 0b00_100000_0000000000000000 = .ok .rdEx0 ∧ decode 0b00_101110_0000000000000000 = .ok .rdIv := by decide

theorem test_decode_wr_timer :
    decode 0b01_000000_0000000110000000 = .ok (.wrCtl 0x0180) ∧
    decode 0b01_010000_1111111111111111 = .ok (.wrR 0xFFFF) ∧
    decode 0b01_100000_0000000000000111 = .ok (.wrEx0 0x0007) ∧
    decode 0b01_101110_0000000000000000 = .ok (.wrIv 0) := by decide

theorem test_decode_rd_cctl :
    decode 0x020000 = .ok .rdCctl0 ∧ decode 0x040000 = .ok .rdCctl1 ∧ decode 0x060000 = .ok .rdCctl2 ∧
    decode 0x080000 = .ok .rdCctl3 ∧ decode 0x0A0000 = .ok .rdCctl4 ∧ decode 0x0C0000 = .ok .rdCctl5 ∧
    decode 0x0E0000 = .ok .rdCctl6 := by decide

theorem test_decode_wr_cctl :
    decode 0x420011 = .ok (.wrCctl0 0x0011) ∧ decode 0x44D911 = .ok (.wrCctl1 0xD911) ∧
    decode 0x464900 = .ok (.wrCctl2 0x4900) ∧ decode 0x480001 = .ok (.wrCctl3 1) ∧
    decode 0x4A0002 = .ok (.wrCctl4 2) ∧ decode 0x4C8000 = .ok (.wrCctl5 0x8000) ∧
    decode 0x4EFFFF = .ok (.wrCctl6 0xFFFF) := by decide

theorem test_decode_rd_ccr :
    decode 0x120000 = .ok .rdCcr0 ∧ decode 0x140000 = .ok .rdCcr1 ∧ decode 0x160000 = .ok .rdCcr2 ∧
    decode 0x180000 = .ok .rdCcr3 ∧ decode 0x1A0000 = .ok .rdCcr4 ∧ decode 0x1C0000 = .ok .rdCcr5 ∧
    decode 0x1E0000 = .ok .rdCcr6 := by decide

theorem test_decode_wr_ccr :
    decode 0x5203E8 = .ok (.wrCcr0 0x03E8) ∧ decode 0x540005 = .ok (.wrCcr1 5) ∧ decode 0x568000 = .ok (.wrCcr2 0x8000) ∧
    decode 0x580001 = .ok (.wrCcr3 1) ∧ decode 0x5A0002 = .ok (.wrCcr4 2) ∧ decode 0x5CFFFF = .ok (.wrCcr5 0xFFFF) ∧
    decode 0x5E1234 = .ok (.wrCcr6 0x1234) := by decide

theorem test_decode_events :
    decode 0b10_000000_0000000000000000 = .ok .reset ∧ decode 0b10_000001_0000000000000000 = .ok (.src .external) ∧
    decode 0x810003 = .ok (.src .internalLowPower) ∧ decode 0b10_000010_0000000000010001 = .ok (.pin 1 .a true) ∧
    decode 0x820062 = .ok (.pin 6 .b false) ∧ decode 0x820023 = .ok (.pin 2 .b true) ∧
    decode 0b10_000011_0000000000000110 = .ok (.sync 6) ∧ decode 0b10_000100_0000000000000000 = .ok .ack0 := by decide

theorem test_decode_reserved_kind :
    decode 0b11_000000_0000000000000000 = .ok (.reservedKind 0) ∧
    decode 0xFFFFFF = .ok (.reservedKind 0x3FFFFF) := by decide

/-- The words the spec lists as refused by the decoder (95_test_vectors.md, section 2.8). -/
theorem test_decode_rejects :
    decode 0x000001 = .error (.readDataNonzero 0x000001) ∧ decode 0x010000 = .error (.oddOffset 0x01) ∧
    decode 0x430000 = .error (.oddOffset 0x03) ∧ decode 0x220000 = .error (.unmapped 0x22) ∧
    decode 0x300000 = .error (.unmapped 0x30) ∧ decode 0x850000 = .error (.badEvent 0x850000) ∧
    decode 0x810004 = .error (.badEvent 0x810004) ∧ decode 0x820080 = .error (.badEvent 0x820080) ∧
    decode 0x800001 = .error (.badEvent 0x800001) ∧ decode 0x840001 = .error (.badEvent 0x840001) := by decide

/-- The words of the driver operations of S1 to S5, P1 and P4 (95_test_vectors.md). -/
theorem test_encode_driver_timer :
    encode (.configClock .auxiliary .div4) 0 = [0x400180] ∧ encode (.setExpansionDivider 3) 0 = [0x600002] ∧
    encode .driverReset 0x0010 = [0x000000, 0x400014] ∧ encode .upmode 0x0223 = [0x000000, 0x400216] ∧
    encode .continuous 0x0003 = [0x000000, 0x400026] ∧ encode .stop 0x0020 = [0x000000, 0x400000] ∧
    encode .isStopped 0 = [0x000000] ∧ encode .overflowFlagRead 0 = [0x000000] ∧
    encode .overflowFlagClear 0x0003 = [0x000000, 0x400002] ∧
    encode .overflowInterruptEnable 0x0001 = [0x000000, 0x400003] ∧
    encode .overflowInterruptDisable 0x0002 = [0x000000, 0x400000] ∧ encode .readVector 0 = [0x2E0000] := by decide

theorem test_encode_driver_channel :
    encode (.chConfigOutputMode 1 .toggle) 0 = [0x440080] ∧
    encode (.chConfigCaptureMode 1 .both .lineA) 0 = [0x44C900] ∧ encode (.chSetValue 0 0x03E8) 0 = [0x5203E8] ∧
    encode (.chGetValue 1) 0 = [0x140000] ∧ encode (.chFlagRead 2) 0 = [0x060000] ∧
    encode (.chFlagClear 6) 0xFFFF = [0x0E0000, 0x4EFFFE] ∧ encode (.chEnable 1) 0xC900 = [0x040000, 0x44C910] ∧
    encode (.chDisable 3) 0x0010 = [0x080000, 0x480000] ∧
    encode (.chCaptureOverflowAndFlagRead 1) 0 = [0x040000] ∧
    encode (.chClearOverflowAndFlag 1) 0x490B = [0x040000, 0x444908] := by decide

/-- The table's numbering: the first word of a row is what the decoder reads. -/
theorem test_table_words :
    decodeTableWord 24 0x810002 = some (.src .subMain) ∧ decodeTableWord 24 0x850000 = none ∧
    decodeTableWord 48 0x400014000000 = some .rdCtl := by decide

/-! ## Small states -/

/-- The reset state with another instance. -/
def withTimer (t : Timer) : State := { State.reset with timer := t }

/-- The reset state with channel `n` replaced. -/
def withChan (n : Chan) (c : Channel) : State := withTimer (Timer.initial.setChan n c)

/-- A running instance: mode, counter, top. -/
def running (mc : RunMode) (tar top : Word) : Timer :=
  ({ Timer.initial with mc := mc, tar := tar }).setChan 0 { Channel.initial with ccr := top }

/-- A state about to fetch the words. -/
def fed (ws : List StimWord) (s : State) : State := { s with stimuli := ws }

/-- All seven channels wired. -/
def allWired (s : State) : State := { s with cfg := { s.cfg with lastCh := 6 } }

/-- A channel capturing both edges of line A through the synchroniser. -/
def capturing : Channel := { Channel.initial with cm := .both, scs := true, cap := true }

/-- What a next state is asked. -/
def next (o : Host.Outcome State Fault Refusal) (p : State → Bool) : Bool :=
  match o with
  | .next t => p t
  | .fault _ => false
  | .refused _ => false

/-! ## One step each -/

/-- `withFetchWord`: the next step runs that instruction. -/
theorem test_fetch_word :
    next (step (State.reset.withFetchWord 24 0x400180)) (fun t => t.timer.tassel = .auxiliary ∧ t.pc = 1) = true := by decide

/-- V-BUS-1 line 0: the clear pulse with the divider just written, `TACLR` not stored. -/
theorem test_wr_ctl_clear_pulse :
    next (exec (.wrCtl 0xFFEF) (withTimer { Timer.initial with tar := 0x1234 }))
      (fun t => t.timer.tar = 0 ∧ t.timer.presc = 7 ∧ ctlWord t.timer = 0x03E3) = true := by decide

/-- Section 2.8 line 8: run-mode code 3 is refused. -/
theorem test_wr_ctl_mode_three :
    next (exec (.wrCtl 0x0030) State.reset)
      (fun t => t.refused ∧ t.timer = Timer.initial ∧ t.refusals = [(.rf7 0x0030, 0)]) = true := by decide

/-- V-BUS-2 lines 0 and 1: all ones written, `SCCI` and bit 9 read 0, bit 3 is the fixed-high input, a request latched. -/
theorem test_wr_cctl_all_ones :
    next (exec (.wrCctl1 0xFFFF) State.reset)
      (fun t => cctlWord (t.timer.chan 1) = 0xF9FF ∧ (t.timer.chan 1).capReq) = true := by decide

/-- V-BUS-3: three bits of `EX0`. -/
theorem test_wr_ex0 : next (exec (.wrEx0 0xFFFF) State.reset) (fun t => ex0Word t.timer = 7) = true := by decide

/-- V-BUS-4 line 2: a write of the counter to a compare value matches nothing. -/
theorem test_wr_r_no_match :
    next (exec (.wrR 5) (withChan 1 { Channel.initial with ccr := 5 }))
      (fun t => t.timer.tar = 5 ∧ (t.timer.chan 1).ccifg = false) = true := by decide

/-- V-CLK-1 line 8: the tick boundary reloads and ticks. -/
theorem test_src_boundary :
    next (exec (.src .auxiliary) (withTimer { running .up 0 0xFF with tassel := .auxiliary, id := .div4 }))
      (fun t => t.timer.tar = 1 ∧ t.timer.presc = 3) = true := by decide

/-- V-RUN-1 line 5: the tick from the top wraps with `TAIFG`. -/
theorem test_src_wrap :
    next (exec (.src .external) (withTimer (running .up 3 3))) (fun t => t.timer.tar = 0 ∧ t.timer.taifg) = true := by decide

/-- V-CMP-2: on a coincidence the match action comes first, then the top action: mode 6 ends high, mode 2 low. -/
theorem test_output_coincidence :
    outputAfter .toggleSet true true false = true ∧ outputAfter .toggleReset true true false = false ∧
    outTop (outMatch { Channel.initial with outmod := .toggleSet }) =
      { Channel.initial with outmod := .toggleSet, outSig := true } := by decide

/-- V-CMP-5 line 1: leaving output mode 0 keeps the level. -/
theorem test_wr_cctl_keeps_level :
    next (exec (.wrCctl1 0x00A4) (withChan 1 { Channel.initial with out := true, outSig := true }))
      (fun t => (t.timer.chan 1).outSig) = true := by decide

/-- V-CAP-2 line 3: an edge latches a request and captures nothing yet. -/
theorem test_pin_latches :
    next (exec (.pin 1 .a true) (withChan 1 capturing))
      (fun t => (t.timer.chan 1).capReq ∧ !(t.timer.chan 1).unread) = true := by decide

/-- V-CAP-2 line 7: the synchroniser captures the counter of its own stimulus. -/
theorem test_sync_captures :
    next (exec (.sync 1) (withTimer ((running .continuous 3 0).setChan 1 { capturing with capReq := true })))
      (fun t => (t.timer.chan 1).ccr = 3 ∧ !(t.timer.chan 1).cov ∧ (t.timer.chan 1).unread) = true := by decide

/-- V-CAP-7 line 14: a second capture before a read sets `COV`, in Stopped mode too. -/
theorem test_sync_overflow :
    next (exec (.sync 0) (withTimer ((running .stopped 1 0).setChan 0 { capturing with capReq := true, unread := true })))
      (fun t => (t.timer.chan 0).ccr = 1 ∧ (t.timer.chan 0).cov) = true := by decide

/-- V-CAP-6 line 1: an unsynchronised capture raises the flag at once and latches no request; its value is free. -/
theorem test_pin_unsynchronised :
    next (exec (.pin 1 .a true) (withChan 1 { capturing with scs := false }))
      (fun t => (t.timer.chan 1).ccifg ∧ !(t.timer.chan 1).capReq ∧ t.draws = 1) = true := by decide

/-- V-CAP-2 line 9: reading the value clears `unread`. -/
theorem test_rd_ccr :
    next (exec .rdCcr1 (withChan 1 { capturing with ccr := 3, unread := true, ccifg := true }))
      (fun t => t.rdata = some 3 ∧ !(t.timer.chan 1).unread ∧ (t.timer.chan 1).ccifg) = true := by decide

/-- Section 2.8 line 6: channel 3 is not wired. -/
theorem test_rd_cctl_unwired :
    next (exec .rdCctl3 State.reset) (fun t => t.refusals = [(.rf4 3, 0)] ∧ t.rdata = none) = true := by decide

/-- V-IV-1 line 3: channel 1 before channel 2 before the overflow; only its flag is cleared. -/
theorem test_rd_iv_priority :
    next (exec .rdIv (withTimer ((({ Timer.initial with taie := true, taifg := true }).setChan 2
        { Channel.initial with ccie := true, ccifg := true }).setChan 1 { Channel.initial with ccie := true, ccifg := true })))
      (fun t => t.rdata = some 2 ∧ !(t.timer.chan 1).ccifg ∧ (t.timer.chan 2).ccifg ∧ t.timer.taifg) = true := by decide

/-- V-IV-3 line 3: `ACK0` clears channel 0's flag and its request line falls. -/
theorem test_ack0 :
    next (exec .ack0 (withChan 0 { Channel.initial with ccie := true, ccifg := true }))
      (fun t => !irqCcr0 t.timer ∧ (t.timer.chan 0).ccie) = true := by decide

/-- V-RST-1 line 7: reset clears the registers and keeps the input level. -/
theorem test_reset_event :
    next (exec .reset (withTimer (({ Timer.initial with mc := .up, tar := 7, presc := 30 }).setChan 1
        { capturing with cciA := true, capReq := true })))
      (fun t => t.timer.tar = 0 ∧ t.timer.presc = 0 ∧ cctlWord (t.timer.chan 1) = 0x0008 ∧
        !(t.timer.chan 1).capReq) = true := by decide

/-- V-HAZ-1: an overflow between the halves of `overflow_interrupt_enable()` is lost. -/
theorem test_enable_loses_overflow :
    next (exec .overflowInterruptEnable
        { withTimer (running .continuous 0xFFFF 0) with gaps := [[0x810000]] })
      (fun t => ctlWord t.timer = 0x0022 ∧ t.timer.tar = 0 ∧ t.pc = 3 ∧ t.gaps = []) = true := by decide

/-- V-HAZ-2: with the tick before the operation the flag is kept. -/
theorem test_enable_keeps_overflow :
    next (exec .overflowInterruptEnable (withTimer { running .continuous 0 0 with taifg := true }))
      (fun t => ctlWord t.timer = 0x0023) = true := by decide

/-- S1: `upmode()` on `CTL == 0x0223`. -/
theorem test_upmode :
    next (exec .upmode (withTimer { running .continuous 9 3 with tassel := .subMain, taie := true, taifg := true }))
      (fun t => ctlWord t.timer = 0x0212 ∧ t.timer.tar = 0 ∧ t.result = none) = true := by decide

/-- S3: `ch1.config_output_mode(4)` after capture use. -/
theorem test_config_output_mode :
    next (exec (.chConfigOutputMode 1 .toggle) (withChan 1 { capturing with ccis := .lineB, ccie := true, ccifg := true }))
      (fun t => cctlWord (t.timer.chan 1) = 0x0080) = true := by decide

/-- S4 line 12: the pair `(overflow, flag)`. -/
theorem test_overflow_and_flag_read :
    next (exec (.chCaptureOverflowAndFlagRead 1) (withChan 1 { capturing with cov := true, ccifg := true }))
      (fun t => t.result = some (.pair true true)) = true := by decide

/-- S6: the code of channel 1. -/
theorem test_read_vector :
    next (exec .readVector (withChan 1 { Channel.initial with ccie := true, ccifg := true }))
      (fun t => t.result = some (.value 2) ∧ !irqIv t.cfg t.timer) = true := by decide

/-! ## Witnesses: the hypotheses of the statements are met, each clause at a boundary of its range -/

/-- Stimulus rows at their largest operands, and a word that decodes. -/
theorem witness_StimulusRowsDecodeTheirWord :
    (Instr.rdCtl).isDriverOp = false ∧ (Instr.wrIv 0xFFFF).isDriverOp = false ∧ (Instr.pin 7 .b true).isDriverOp = false ∧
    (Instr.reservedKind 0x3FFFFF).isDriverOp = false := by decide

theorem witness_DecodedWordEncodesBack :
    decode 0x000000 = .ok .rdCtl ∧ decode 0x82007F = .error (.badEvent 0x82007F) ∧
    decode 0x820073 = .ok (.pin 7 .b true) ∧ decode 0xFFFFFF = .ok (.reservedKind 0x3FFFFF) := by decide

/-- Each way to be rejected at the edges of its range, and accepted words next to them. -/
theorem witness_RejectedWordsAreTheListedOnes :
    decode 0x00FFFF = .error (.readDataNonzero 0x00FFFF) ∧ decode 0x7FFFFF = .error (.oddOffset 0x3F) ∧
    decode 0x210000 = .error (.oddOffset 0x21) ∧ decode 0x200000 = .ok .rdEx0 ∧
    decode 0x220000 = .error (.unmapped 0x22) ∧ decode 0x2C0000 = .error (.unmapped 0x2C) ∧
    decode 0x3E0000 = .error (.unmapped 0x3E) ∧ decode 0x810004 = .error (.badEvent 0x810004) ∧
    decode 0x820004 = .error (.badEvent 0x820004) ∧ decode 0x830008 = .error (.badEvent 0x830008) ∧
    decode 0xBFFFFF = .error (.badEvent 0xBFFFFF) := by decide

theorem witness_StepRunsDecodedInstruction :
    (fed [0x400024] State.reset).stimuli[(fed [0x400024] State.reset).pc]? = some 0x400024 ∧
    decode 0x400024 = .ok (.wrCtl 0x0024) := by decide

theorem witness_StepRefusesRejectedWordAndEndsAtListEnd :
    decode 0x000001 = .error (.readDataNonzero 0x000001) ∧ decode 0x850000 = .error (.badEvent 0x850000) ∧
    decode 0x010000 = .error (.oddOffset 0x01) ∧ decode 0x220000 = .error (.unmapped 0x22) ∧
    (fed [0x000001] State.reset).stimuli[0]? = some 0x000001 ∧ State.reset.stimuli.length ≤ State.reset.pc := by decide

/-- The last wired channel, the first unwired one, and channel 6 wired. -/
theorem witness_channels_wired_and_not :
    wired State.reset.cfg 0 = true ∧ wired State.reset.cfg 2 = true ∧ wired State.reset.cfg 3 = false ∧
    wired State.reset.cfg 6 = false ∧ wired (allWired State.reset).cfg 6 = true := by decide

/-- The membership hypotheses of the statements over the rows by channel. -/
theorem witness_rows_by_channel :
    (2, Instr.rdCctl2) ∈ cctlReads ∧ (6, Instr.rdCctl6) ∈ cctlReads ∧ (3, Instr.wrCctl3 0xFFFF) ∈ cctlWrites 0xFFFF ∧
    (0, Instr.rdCcr0) ∈ ccrReads ∧ (6, Instr.wrCcr6 0) ∈ ccrWrites 0 := by decide

/-- `witness_ReadCcrReturnsAndMarksRead`: another channel. -/
theorem witness_ReadCcrReturnsAndMarksRead : (1 : Chan) ≠ 0 ∧ (6 : Chan) ≠ 0 := by decide

/-- Channel 1 pending, channel 6 pending, the overflow alone, nothing pending though a flag is set. -/
theorem witness_ReadIvReturnsAndAcknowledges :
    (SharedPending (withChan 1 { Channel.initial with ccie := true, ccifg := true }) 1 ∧
      ∀ m, m < 1 → ¬ SharedPending (withChan 1 { Channel.initial with ccie := true, ccifg := true }) m) ∧
    (SharedPending (allWired (withChan 6 { Channel.initial with ccie := true, ccifg := true })) 6 ∧
      ∀ m, m < 6 → ¬ SharedPending (allWired (withChan 6 { Channel.initial with ccie := true, ccifg := true })) m) ∧
    (∀ m, ¬ SharedPending (withTimer { Timer.initial with taie := true, taifg := true }) m) ∧
    ((∀ m, ¬ SharedPending (withTimer { Timer.initial with taifg := true }) m) ∧
      ¬ ((withTimer { Timer.initial with taifg := true }).timer.taifg = true ∧
        (withTimer { Timer.initial with taifg := true }).timer.taie = true)) := by decide

/-- Data with each mode, with and without the clear pulse; and mode code 3. -/
theorem witness_WriteCtlStoresFields :
    (0x0000 : Word).toNat / 16 % 4 ≠ 3 ∧ (0x0000 : Word).toNat / 4 % 2 = 0 ∧ (0xFFEF : Word).toNat / 16 % 4 ≠ 3 ∧
    (0xFFEF : Word).toNat / 4 % 2 = 1 ∧ (0x0014 : Word).toNat / 16 % 4 ≠ 3 := by decide

theorem witness_WriteCtlModeThreeRefused :
    (0x0030 : Word).toNat / 16 % 4 = 3 ∧ (0xFFFF : Word).toNat / 16 % 4 = 3 := by decide

/-- No selected edge: Compare role, no selection, the other edge, no change. -/
theorem witness_edge_not_selected :
    ¬ SelectedEdge false .both false true ∧ ¬ SelectedEdge true .none false true ∧
    ¬ SelectedEdge true .rising true false ∧ ¬ SelectedEdge true .both true true := by decide

/-- A selected edge, synchronised and not. -/
theorem witness_edge_selected :
    SelectedEdge true .rising false true ∧ SelectedEdge true .falling true false ∧ SelectedEdge true .both true false ∧
    capturing.scs = true ∧ ({ capturing with scs := false } : Channel).scs = false := by decide

/-- The counter just above the top, at the smallest top and at the largest counter. -/
theorem witness_WriteCounterSetsCounterOnly :
    ((running .up 0 1).mc = .up ∧ ((running .up 0 1).chan 0).ccr ≠ 0 ∧ ((running .up 0 1).chan 0).ccr < (2 : Word)) ∧
    ((running .up 0 0xFFFE).chan 0).ccr ≠ 0 ∧ ((running .up 0 0xFFFE).chan 0).ccr < (0xFFFF : Word) := by decide

theorem witness_SourceEdgeIgnoredWhenStoppedOrUnselected :
    (withTimer (running .stopped 0 1)).timer.mc = .stopped ∧
    ClockSource.auxiliary ≠ (withTimer (running .up 0 1)).timer.tassel := by decide

/-- The smallest and the largest divider count. -/
theorem witness_SourceEdgeCountsDividerDown :
    (running .up 0 1).mc ≠ .stopped ∧ ({ running .up 0 1 with presc := 1 } : Timer).presc.toNat = (0 : BitVec 6).toNat + 1 ∧
    ({ running .continuous 0 1 with presc := 63 } : Timer).presc.toNat = (62 : BitVec 6).toNat + 1 := by decide

/-- Up mode: top 0; the counter at the top, and above it; the counter one below the largest top. -/
theorem witness_UpModeTickBoundary :
    ((running .up 5 0).mc = .up ∧ (running .up 5 0).presc = 0 ∧ ((running .up 5 0).chan 0).ccr.toNat = 0) ∧
    (((running .up 1 1).chan 0).ccr.toNat ≠ 0 ∧ ((running .up 1 1).chan 0).ccr.toNat ≤ (running .up 1 1).tar.toNat) ∧
    ((running .up 0xFFFF 1).chan 0).ccr.toNat ≤ (running .up 0xFFFF 1).tar.toNat ∧
    (((running .up 0xFFFE 0xFFFF).chan 0).ccr.toNat ≠ 0 ∧
      (running .up 0xFFFE 0xFFFF).tar.toNat < ((running .up 0xFFFE 0xFFFF).chan 0).ccr.toNat) := by decide

theorem witness_ContinuousModeTickBoundary :
    (withTimer (running .continuous 0xFFFF 0)).timer.mc = .continuous ∧
    (withTimer (running .continuous 0xFFFF 0)).timer.presc = 0 := by decide

theorem witness_ContinuousCountsModulo65536 : (running .continuous 0xFFFF 0).mc = .continuous := by decide

/-- The shortest and the longest chain, with the smallest and the largest top. -/
theorem witness_UpModePeriodInSourceEdges :
    ((running .up 0 1).mc = .up ∧ ((running .up 0 1).chan 0).ccr ≠ 0 ∧ (running .up 0 1).tar = 0 ∧
      (running .up 0 1).presc.toNat + 1 = 2 ^ (running .up 0 1).id.code.toNat * ((running .up 0 1).taidex.toNat + 1)) ∧
    (((running .up 0 0xFFFF).chan 0).ccr ≠ 0 ∧
      ({ running .up 0 0xFFFF with id := .div8, taidex := 7, presc := 63 } : Timer).presc.toNat + 1 =
        2 ^ PrimaryDivider.div8.code.toNat * ((7 : BitVec 3).toNat + 1)) := by decide

theorem witness_PinSetsLineAndDetectsEdge :
    (2 : BitVec 3).toNat = (2 : Chan).val ∧ wired State.reset.cfg 2 = true ∧ (6 : BitVec 3).toNat = (6 : Chan).val ∧
    wired (allWired State.reset).cfg 6 = true := by decide

theorem witness_EdgeDetectorActsOnSelectedEdges :
    false ≠ true ∧ Channel.initial.cap = false ∧ (capturing.cap = true ∧ capturing.cm = .both) ∧
    ({ capturing with cm := .none } : Channel).cap = true ∧ ({ capturing with cm := .rising } : Channel).cm = .rising ∧
    ({ capturing with cm := .falling } : Channel).cm = .falling := by decide

theorem witness_CaptureStoresValueAndLatchesOverflow : capturing.unread = false := by decide

theorem witness_SyncCapturesCounter :
    ((withChan 1 capturing).timer.chan 1).capReq = false ∧
    (((withChan 1 { Channel.initial with capReq := true }).timer.chan 1).capReq = true ∧
      ((withChan 1 { Channel.initial with capReq := true }).timer.chan 1).cap = false) ∧
    (((withChan 1 { capturing with capReq := true }).timer.chan 1).capReq = true ∧
      ((withChan 1 { capturing with capReq := true }).timer.chan 1).cap = true) := by decide

/-- The first unwired channel number, and 7. -/
theorem witness_EventOnUnwiredChannelRefused :
    State.reset.cfg.lastCh.val < (3 : BitVec 3).toNat ∧ (allWired State.reset).cfg.lastCh.val < (7 : BitVec 3).toNat := by
  decide

theorem witness_SetExpansionDividerStoresDivisor : 1 ≤ 1 ∧ 1 ≤ 8 ∧ 8 ≤ 8 := by decide

theorem witness_driver_lists :
    (Instr.upmode, RunMode.up) ∈ [(Instr.upmode, RunMode.up), (.continuous, .continuous)] ∧
    (Instr.chClearOverflowAndFlag 1, fun v : Word => v &&& 0xFFFC) ∈ cctlModifies 1 ∧
    (Instr.overflowInterruptDisable, fun v : Word => v &&& 0xFFFD) ∈ ctlModifies := by simp [cctlModifies, ctlModifies]

/-- Nothing in the gap; and a gap that reselects the input of the channel. -/
theorem witness_ChannelFlagAndEnableOperations :
    wired State.reset.cfg 1 = true ∧ State.reset.gaps = [] ∧
    ((fillGap (withChan 1 capturing)).timer.chan 1).ccis = capturing.ccis ∧
    ((fillGap { withChan 1 capturing with gaps := [[0x44F900]] }).timer.chan 1).ccis = .high := by decide

/-- One pending source only: channel 2; and the overflow. -/
theorem witness_ReadVectorAcknowledgesOnce :
    (SharedPending (withChan 2 { Channel.initial with ccie := true, ccifg := true }) 2 ∧
      (∀ m, SharedPending (withChan 2 { Channel.initial with ccie := true, ccifg := true }) m → m = 2) ∧
      ¬ ((withChan 2 { Channel.initial with ccie := true, ccifg := true }).timer.taifg = true ∧
        (withChan 2 { Channel.initial with ccie := true, ccifg := true }).timer.taie = true)) ∧
    (∀ m, ¬ SharedPending (withTimer { Timer.initial with taie := true, taifg := true }) m) := by decide

theorem witness_TwoCapturesBeforeReadReportOverflow :
    (1 : BitVec 3).toNat = (1 : Chan).val ∧ wired State.reset.cfg 1 = true ∧ State.reset.gaps = [] ∧
    (((withChan 1 { capturing with capReq := true }).timer.chan 1).cap = true ∧
      ((withChan 1 { capturing with capReq := true }).timer.chan 1).scs = true ∧
      ((withChan 1 { capturing with capReq := true }).timer.chan 1).cm = .both ∧
      ((withChan 1 { capturing with capReq := true }).timer.chan 1).ccis = .lineA ∧
      ((withChan 1 { capturing with capReq := true }).timer.chan 1).capReq = true) := by decide

theorem witness_ChannelModifyOnUnwiredChannelRefusedTwice :
    wired State.reset.cfg 3 = false ∧
    (Instr.chFlagClear 3, fun v : Word => v &&& 0xFFFE) ∈ cctlModifies 3 := by
  refine ⟨by decide, ?_⟩; simp [cctlModifies]

/-- V-HAZ-1 as words and as an operation, on `CTL`. -/
theorem witness_DriverOperationRefinesItsWords_ctl :
    let s := { fed [0x000000, 0x810000, 0x400022] (withTimer (running .continuous 0xFFFF 0)) with gaps := [[0x810000]] }
    s.gaps = [0x810000] :: [] ∧
    exec .rdCtl s = .next { s with pc := s.pc + 1, rdata := some 0x0020 } ∧
    (s.stimuli.drop s.pc).take 3 =
      [0x000000#24] ++ [0x810000] ++ [0x400000#24 ||| ((0x0020 : Word) ||| 0x0002).setWidth 24] := by
  refine ⟨rfl, ?_, by decide⟩
  rw [show exec .rdCtl _ = .next (rdCtl _) from rfl]; rfl

/-- S4 lines 13 and 14, with nothing in between, on channel 1. -/
theorem witness_DriverOperationRefinesItsWords_cctl :
    let s := { fed [0x040000, 0x444900] (withChan 1 { capturing with cm := .rising, cov := true, ccifg := true }) with
      gaps := [[]] }
    s.gaps = [] :: [] ∧ wired s.cfg 1 = true ∧
    exec (.chFlagRead 1) s = .next { s with pc := s.pc + 1, rdata := some 0x4903,
                                            result := some (.truth (s.timer.chan 1).ccifg) } ∧
    (s.stimuli.drop s.pc).take 2 = [BitVec.ofNat 24 (0x020000 + 0x020000 * 1)] ++ [] ++
      [0x400000#24 ||| BitVec.ofNat 24 (0x020000 + 0x020000 * 1) ||| ((0x4903 : Word) &&& 0xFFFC).setWidth 24] := by
  refine ⟨rfl, by decide, rfl, by decide⟩

/-- A state with the invariant that steps, by a completed and by a refused stimulus. -/
theorem witness_StepKeepsInvariant :
    Inv (fed [0x424900] State.reset) ∧ next (step (fed [0x424900] State.reset)) (fun t => t.pc = 1) = true ∧
    next (step (fed [0x000001] State.reset)) (fun t => t.refused ∧ t.refusals = [(.rf5 0x000001, 0)]) = true := by decide

/-- A `WR CTL` and a `RESET` that change the mode. -/
theorem witness_OnlyCtlWriteOrResetChangesMode :
    next (step (fed [0x400020] State.reset)) (fun t => t.timer.mc ≠ State.reset.timer.mc) = true ∧
    next (step (fed [0x800000] (withTimer (running .up 0 1)))) (fun t => t.timer.mc ≠ .up) = true := by decide

/-- The four writers of the counter. -/
theorem witness_CounterWrittenOnlyByItsFourWriters :
    next (step (fed [0x810000] (withTimer (running .up 1 1)))) (fun t => t.timer.tar ≠ 1) = true ∧
    next (step (fed [0x400004] (withTimer (running .up 1 1)))) (fun t => t.timer.tar ≠ 1) = true ∧
    next (step (fed [0x50FFFF] (withTimer (running .up 1 1)))) (fun t => t.timer.tar ≠ 1) = true ∧
    next (step (fed [0x800000] (withTimer (running .up 1 1)))) (fun t => t.timer.tar ≠ 1) = true := by decide

/-- The two wraps and the write that set the overflow flag. -/
theorem witness_OverflowFlagSetOnlyByWrapOrWrite :
    (running .up 1 1).taifg = false ∧
    next (step (fed [0x810000] (withTimer (running .up 1 1)))) (fun t => t.timer.taifg) = true ∧
    next (step (fed [0x810000] (withTimer (running .continuous 0xFFFF 0)))) (fun t => t.timer.taifg) = true ∧
    next (step (fed [0x400001] State.reset)) (fun t => t.timer.taifg) = true := by decide

/-- Each flag set, and a step that clears it. -/
theorem witness_FlagsPersistUntilCleared :
    next (step (fed [0x440000] (withChan 1 { Channel.initial with cov := true }))) (fun t => !(t.timer.chan 1).cov) = true ∧
    next (step (fed [0x2E0000] (withChan 1 { Channel.initial with ccie := true, ccifg := true })))
      (fun t => !(t.timer.chan 1).ccifg) = true ∧
    next (step (fed [0x840000] (withChan 0 { Channel.initial with ccifg := true })))
      (fun t => !(t.timer.chan 0).ccifg) = true ∧
    next (step (fed [0x6E0000] (withTimer { Timer.initial with taie := true, taifg := true })))
      (fun t => !t.timer.taifg) = true := by decide

theorem witness_InputLinesChangedOnlyByPin :
    next (step (fed [0x820023] State.reset)) (fun t => (t.timer.chan 2).cciB) = true := by decide

/-- One channel wired, with and without the overflow pending. -/
theorem witness_ChannelZeroStaysOffTheVector :
    ({ State.reset with cfg := { Cfg.launch with lastCh := 0 } } : State).cfg.lastCh = 0 := by decide

/-- The last channel and the overflow, each pending alone: the line is high, the source is reported and its flag cleared. -/
theorem witness_RequestLinesFollowPendingSources_reported :
    next (exec .rdIv { withTimer (Timer.initial.setChan 6 { Channel.initial with ccie := true, ccifg := true }) with
        cfg := { Cfg.launch with lastCh := 6 } })
      (fun t => t.rdata = some (BitVec.ofNat 16 (2 * 6)) ∧ !(t.timer.chan 6).ccifg ∧ (t.timer.chan 6).ccie) = true ∧
    irqIv Cfg.launch { Timer.initial with taie := true, taifg := true } = true ∧
    next (exec .rdIv (withTimer { Timer.initial with taie := true, taifg := true }))
      (fun t => t.rdata = some 14 ∧ !t.timer.taifg ∧ t.timer.taie) = true := by decide

/-- A second channel stays pending across an acknowledge; so does an overflow that is not the one reported. -/
theorem witness_RequestLinesFollowPendingSources :
    SharedPending (withTimer ((Timer.initial.setChan 1 { Channel.initial with ccie := true, ccifg := true }).setChan 2
      { Channel.initial with ccie := true, ccifg := true })) 2 ∧
    next (exec .rdIv (withTimer ((({ Timer.initial with taifg := true }).setChan 1
        { Channel.initial with ccie := true, ccifg := true }).setChan 2 { Channel.initial with ccie := true, ccifg := true })))
      (fun t => t.rdata ≠ some (BitVec.ofNat 16 (2 * 2)) ∧ t.rdata ≠ some 14 ∧ t.timer.taifg) = true := by decide

end Sys2Proof.Tests
end

section
/-! SUPPORT. The words of the stimuli: the decoder's inverse, and each stimulus word as a number (R60 to R62). -/

namespace Sys2Proof

/-! ## Event arguments, R62 -/

/-- The argument of `PIN` as a number. -/
theorem pinArg_toNat (n : BitVec 3) (line : Line) (level : Bool) :
    (fieldAt n 4 ||| fieldAt line.code 1 ||| fieldAt (BitVec.ofBool level) 0).toNat =
      16 * n.toNat + 2 * line.code.toNat + level.toNat := by
  cases line <;> cases level <;> revert n <;> decide

/-- A field at bit 0 is the number it holds. -/
theorem fieldAt_zero_toNat {w : Nat} (v : BitVec w) (h : w ≤ 16) : (fieldAt v 0).toNat = v.toNat := by
  have hv : v.toNat < 2 ^ 16 := lt_of_lt_of_le v.isLt (Nat.pow_le_pow_right (by decide) h)
  simpa [fieldAt] using Nat.mod_eq_of_lt hv

theorem Line.code_ofBit_toNat (b : Bool) : (Line.ofBit b).code.toNat = b.toNat := by
  cases b <;> rfl

theorem fieldAt_srcArg {x : Word} (h : x &&& 0xFFFC = 0) :
    fieldAt (ClockSource.ofCode (x.extractLsb' 0 2)).code 0 = x := by
  have hx := (and_srcMask x).1 h
  apply BitVec.eq_of_toNat_eq
  rw [ClockSource.code_ofCode, fieldAt_zero_toNat _ (by decide), Machine.field_toNat]
  omega

theorem fieldAt_syncArg {x : Word} (h : x &&& 0xFFF8 = 0) : fieldAt (x.extractLsb' 0 3) 0 = x := by
  have hx := (and_syncMask x).1 h
  apply BitVec.eq_of_toNat_eq
  rw [fieldAt_zero_toNat _ (by decide), Machine.field_toNat]
  omega

theorem fieldAt_pinArg {x : Word} (h : x &&& 0xFF8C = 0) :
    fieldAt (x.extractLsb' 4 3) 4 ||| fieldAt (Line.ofBit (x.getLsbD 1)).code 1 |||
      fieldAt (BitVec.ofBool (x.getLsbD 0)) 0 = x := by
  obtain ⟨hlt, hgap⟩ := (and_pinMask x).1 h
  have hbit : ∀ i, (x.getLsbD i).toNat = x.toNat / 2 ^ i % 2 := fun i => by
    rw [BitVec.getLsbD, Nat.toNat_testBit]
  apply BitVec.eq_of_toNat_eq
  rw [pinArg_toNat, Line.code_ofBit_toNat, hbit, hbit, Machine.field_toNat]
  omega

/-! ## The decoder's inverse -/

/-- The event word whose parts decode to a stimulus is the stimulus' word. -/
theorem encode_of_decodeEvent {w : StimWord} {f : BitVec 6} {x : Word} {st : Stim}
    (h : decodeEvent w f x = .ok st) : st.encode = stimWord 2 f x := by
  have hf : ∀ k : BitVec 6, f.toNat = k.toNat → f = k := fun k => BitVec.eq_of_toNat_eq
  unfold decodeEvent at h
  split at h
  case h_1 he => split at h <;> cases h; subst_vars; rw [hf 0 he]; rfl
  case h_2 he =>
    split at h <;> cases h
    rename_i hx
    rw [hf 1 he, Stim.encode, fieldAt_srcArg hx]
  case h_3 he =>
    split at h <;> cases h
    rename_i hx
    rw [hf 2 he, Stim.encode, fieldAt_pinArg hx]
  case h_4 he =>
    split at h <;> cases h
    rename_i hx
    rw [hf 3 he, Stim.encode, fieldAt_syncArg hx]
  case h_5 he => split at h <;> cases h; subst_vars; rw [hf 4 he]; rfl
  case h_6 => cases h

/-- The bus word whose register the decoder finds is that register's word. -/
theorem busReg_map_ok {f : BitVec 6} {g : Reg → Stim} {st : Stim} (h : (busReg f).map g = .ok st) :
    ∃ reg : Reg, f = reg.offset ∧ st = g reg := by
  cases hb : busReg f with
  | error e => rw [hb] at h; cases h
  | ok reg => rw [hb] at h; cases h; exact ⟨reg, (busReg_ok f reg).1 hb, rfl⟩

/-- A word that decodes to a stimulus is that stimulus' word: no bit of it is dropped. -/
theorem encode_of_decodeStim {w : StimWord} {st : Stim} (h : decodeStim w = .ok st) : st.encode = w := by
  obtain ⟨hkind, hfield, hdata⟩ := word_parts w
  have hk : ∀ k : BitVec 2, (w.extractLsb' 22 2).toNat = k.toNat → w.extractLsb' 22 2 = k :=
    fun k => BitVec.eq_of_toNat_eq
  have hw := stimWord_eta w
  unfold decodeStim at h
  split at h
  case h_1 he =>
    split at h
    · cases h
    · rename_i hd
      obtain ⟨reg, hf, rfl⟩ := busReg_map_ok h
      rw [hk 0 he, hf, not_not.1 hd] at hw
      exact hw
  case h_2 he =>
    obtain ⟨reg, hf, rfl⟩ := busReg_map_ok h
    rw [hk 1 he, hf] at hw
    exact hw
  case h_3 he => rw [encode_of_decodeEvent h, ← hk 2 he, hw]
  case h_4 h0 h1 h2 =>
    cases h
    have hlt := w.isLt
    apply BitVec.eq_of_toNat_eq
    rw [reserved_toNat, BitVec.extractLsb'_toNat, Nat.shiftRight_zero]
    rw [hkind, imp_false] at h0 h1 h2
    omega

/-! ## Stimulus words as numbers -/

theorem Reg.cctl_offset_toNat (n : Chan) : (Reg.cctl n).offset.toNat = 0x02 + 2 * n.val := by
  revert n; decide

/-- The word of a bus write: kind 1, the offset, the data. -/
theorem encode_wr_toNat (reg : Reg) (d : Word) :
    (Stim.wr reg d).encode.toNat = 0x400000 + 0x10000 * reg.offset.toNat + d.toNat := by
  rw [Stim.encode, stimWord_toNat]; rfl

theorem encode_src_toNat (source : ClockSource) :
    (Stim.src source).encode.toNat = 0x810000 + source.code.toNat := by
  cases source <;> rfl

theorem encode_pin_toNat (n : BitVec 3) (line : Line) (level : Bool) :
    (Stim.pin n line level).encode.toNat = 0x820000 + (16 * n.toNat + 2 * line.code.toNat + level.toNat) := by
  rw [Stim.encode, stimWord_toNat, pinArg_toNat]; rfl

/-- The high byte of a bus write names the register. -/
theorem encode_wr_register (reg : Reg) (d : Word) :
    (Stim.wr reg d).encode.toNat / 0x10000 = 0x40 + reg.offset.toNat := by
  have := d.isLt
  rw [encode_wr_toNat]; omega

/-- The low 16 bits of a bus write are the data. -/
theorem encode_wr_data (reg : Reg) (d : Word) : (Stim.wr reg d).encode.toNat % 0x10000 = d.toNat := by
  have := d.isLt
  rw [encode_wr_toNat]; omega

/-- A bit of the data stands at its own place in a bus write's word. -/
theorem encode_wr_bit (reg : Reg) (d : Word) (i : Nat) (hi : i < 16) :
    (Stim.wr reg d).encode.toNat / 2 ^ i % 2 = (d.getLsbD i).toNat := by
  have h := encode_wr_data reg d
  rw [BitVec.getLsbD, Nat.toNat_testBit, ← h]
  interval_cases i <;> omega

/-- A decoded instruction is that of the decoded stimulus. -/
theorem decode_ok {w : StimWord} {i : Instr} (h : decode w = .ok i) : ∃ st, decodeStim w = .ok st ∧ i = st.toInstr := by
  unfold decode at h
  cases hd : decodeStim w with
  | error e => rw [hd] at h; cases h
  | ok st => rw [hd] at h; cases h; exact ⟨st, rfl, rfl⟩

/-- The instruction of a stimulus has no operand that could be out of range. -/
theorem Stim.toInstr_wellFormed (st : Stim) : st.toInstr.wellFormed = true := by
  match st with
  | .rd .ctl | .rd .r | .rd .ex0 | .rd .iv => rfl
  | .rd (.cctl n) | .rd (.ccr n) => fin_cases n <;> rfl
  | .wr .ctl _ | .wr .r _ | .wr .ex0 _ | .wr .iv _ => rfl
  | .wr (.cctl n) _ | .wr (.ccr n) _ => fin_cases n <;> rfl
  | .reset | .src _ | .pin _ _ _ | .sync _ | .ack0 | .reserved _ => rfl

end Sys2Proof
end

section
/-! SUPPORT. What a stimulus can do to the timer, said once as a relation, and what each operation it names does to the
counter, the flags and the input lines. -/

namespace Sys2Proof.Machine

/-! ## The effect of a stimulus on the timer -/

/-- What carrying out a stimulus can leave of the timer (R80 to R93, R111, R160, R164, R207, R230): the timer as it was
(a refusal, or a read that only answers), or the outcome of the one operation the stimulus names. -/
inductive TimerEffect (s : State) : Stim → Timer → Prop
  | keep (st : Stim) : TimerEffect s st s.timer
  | rdCcr (n : Chan) (hw : wired s.cfg n = true) :
      TimerEffect s (.rd (.ccr n)) (s.timer.setChan n { s.timer.chan n with unread := false })
  | rdIv : TimerEffect s (.rd .iv) (acknowledge (highestPending s.cfg s.timer) s.timer)
  | wrIv (d : Word) : TimerEffect s (.wr .iv d) (acknowledge (highestPending s.cfg s.timer) s.timer)
  | wrCtl (d : Word) (mc : RunMode) (hm : RunMode.ofCode (d.extractLsb' 4 2) = some mc) :
      TimerEffect s (.wr .ctl d) (writeCtl d mc s.timer)
  | wrCctl (n : Chan) (d fv : Word) (hw : wired s.cfg n = true) :
      TimerEffect s (.wr (.cctl n) d) (s.timer.setChan n (writeCctl fv d (s.timer.chan n)))
  | wrR (d : Word) : TimerEffect s (.wr .r d) { s.timer with tar := d }
  | wrCcr (n : Chan) (d : Word) (hw : wired s.cfg n = true) :
      TimerEffect s (.wr (.ccr n) d) (s.timer.setChan n { s.timer.chan n with ccr := d })
  | wrEx0 (d : Word) : TimerEffect s (.wr .ex0 d) { s.timer with taidex := d.extractLsb' 0 3 }
  | reset : TimerEffect s .reset (resetTimer s.cfg s.timer)
  | src (source : ClockSource) : TimerEffect s (.src source) (sourceEdge s.cfg source s.timer)
  | pin (n : BitVec 3) (line : Line) (level : Bool) (k : Chan) (fv : Word) (hk : eventChan s.cfg n = some k) :
      TimerEffect s (.pin n line level)
        (s.timer.setChan k (detectChange fv (cciSel (s.timer.chan k)) (setLine line level (s.timer.chan k))))
  | sync (n : BitVec 3) (k : Chan) (hk : eventChan s.cfg n = some k) :
      TimerEffect s (.sync n) (s.timer.setChan k (syncFire s.timer.tar (s.timer.chan k)))
  | ack0 : TimerEffect s .ack0 (clearCcifg 0 s.timer)

theorem busRead_effect (reg : Reg) (s : State) : TimerEffect s (.rd reg) (busRead reg s).timer := by
  match reg with
  | .ctl | .r | .ex0 => exact .keep _
  | .iv => exact .rdIv
  | .cctl n =>
    show TimerEffect s _ (rdCctl n s).timer
    unfold rdCctl
    split <;> exact .keep _
  | .ccr n =>
    show TimerEffect s _ (rdCcr n s).timer
    unfold rdCcr
    split
    · exact .rdCcr n ‹_›
    · exact .keep _

theorem busWrite_effect (reg : Reg) (d : Word) (s : State) : TimerEffect s (.wr reg d) (busWrite reg d s).timer := by
  match reg with
  | .r => exact .wrR d
  | .ex0 => exact .wrEx0 d
  | .iv => exact .wrIv d
  | .ctl =>
    show TimerEffect s _ (wrCtl d s).timer
    unfold wrCtl
    split
    · exact .wrCtl d _ ‹_›
    · exact .keep _
  | .cctl n =>
    show TimerEffect s _ (wrCctl n d s).timer
    unfold wrCctl
    split
    · exact .wrCctl n d _ ‹_›
    · exact .keep _
  | .ccr n =>
    show TimerEffect s _ (wrCcr n d s).timer
    unfold wrCcr
    split
    · exact .wrCcr n d ‹_›
    · exact .keep _

theorem applyStim_effect (st : Stim) (s : State) : TimerEffect s st (applyStim st s).timer := by
  match st with
  | .rd reg => exact busRead_effect reg s
  | .wr reg d => exact busWrite_effect reg d s
  | .reset => exact .reset
  | .src source => exact .src source
  | .ack0 => exact .ack0
  | .reserved _ => exact .keep _
  | .pin n line level =>
    show TimerEffect s _ (evPin n line level s).timer
    unfold evPin
    split
    · exact .pin n line level _ _ ‹_›
    · exact .keep _
  | .sync n =>
    show TimerEffect s _ (evSync n s).timer
    unfold evSync
    split
    · exact .sync n _ ‹_›
    · exact .keep _

/-- A word carried out either leaves the timer alone or is the word of a stimulus with that stimulus' effect. -/
theorem applyWord_effect (w : StimWord) (s : State) :
    (applyWord w s).timer = s.timer ∨ ∃ st : Stim, st.encode = w ∧ TimerEffect s st (applyWord w s).timer := by
  unfold applyWord
  split
  · exact .inr ⟨_, encode_of_decodeStim ‹_›, applyStim_effect _ _⟩
  · exact .inl rfl

/-- A step that changes the timer carried out the word of a stimulus, with that stimulus' effect. -/
theorem step_effect {s t : State} (h : step s = .next t) :
    t.timer = s.timer ∨ ∃ st : Stim, fetch s = some st.encode ∧ TimerEffect s st t.timer := by
  obtain ⟨w, hf, rfl⟩ := step_next h
  obtain hk | ⟨st, rfl, he⟩ := applyWord_effect w s
  · exact .inl hk
  · exact .inr ⟨st, hf, he⟩

/-! ## The counter -/

/-- A tick leaves the timer alone or counts to 0 or to the next value (R126 to R131). -/
theorem tick_cases (cfg : Cfg) (t : Timer) :
    tick cfg t = t ∨ ∃ new ovf, tick cfg t = countTo cfg new ovf t ∧ (new = 0 ∨ new = t.tar + 1) := by
  unfold tick
  split
  · exact .inl rfl
  · split
    · exact .inl rfl
    · split
      · exact .inr ⟨_, _, rfl, .inl rfl⟩
      · exact .inr ⟨_, _, rfl, .inr rfl⟩
  · exact .inr ⟨_, _, rfl, .inr rfl⟩

/-- A source edge is ignored, moves the divider chain, or ticks (R111, R113). -/
theorem sourceEdge_cases (cfg : Cfg) (source : ClockSource) (t : Timer) :
    (∃ presc, sourceEdge cfg source t = { t with presc := presc }) ∨
    (t.mc ≠ .stopped ∧ source = t.tassel ∧ t.presc = 0 ∧
      sourceEdge cfg source t = tick cfg { t with presc := prescReload t }) := by
  unfold sourceEdge
  split
  · exact .inl ⟨t.presc, rfl⟩
  next hmode =>
    split
    · exact .inl ⟨t.presc, rfl⟩
    next hsource =>
      split
      · exact .inl ⟨t.presc - 1, rfl⟩
      next hpresc => exact .inr ⟨hmode, not_not.1 hsource, not_not.1 hpresc, rfl⟩

@[simp] theorem countTo_tar (cfg : Cfg) (new : Word) (ovf : Bool) (t : Timer) : (countTo cfg new ovf t).tar = new := rfl

@[simp] theorem countTo_taifg (cfg : Cfg) (new : Word) (ovf : Bool) (t : Timer) :
    (countTo cfg new ovf t).taifg = (t.taifg || ovf) := rfl

@[simp] theorem countTo_chan (cfg : Cfg) (new : Word) (ovf : Bool) (t : Timer) (n : Chan) :
    (countTo cfg new ovf t).chan n =
      if wired cfg n then compareChannel new (decide (new = (t.chan 0).ccr)) (t.chan n) else t.chan n :=
  Timer.mapWired_chan _ _ _ _

/-- A source edge that moves the counter is a tick boundary of the running timer's own source. -/
theorem sourceEdge_tar (cfg : Cfg) (source : ClockSource) (t : Timer) (h : (sourceEdge cfg source t).tar ≠ t.tar) :
    t.mc ≠ .stopped ∧ source = t.tassel ∧ t.presc = 0 ∧
    ((sourceEdge cfg source t).tar = 0 ∨ (sourceEdge cfg source t).tar = t.tar + 1) := by
  obtain ⟨presc, he⟩ | ⟨hmode, hsource, hpresc, he⟩ := sourceEdge_cases cfg source t
  · exact absurd (congrArg Timer.tar he) h
  · obtain hk | ⟨new, ovf, hc, hnew⟩ := tick_cases cfg { t with presc := prescReload t }
    · exact absurd (congrArg Timer.tar (he.trans hk)) h
    · rw [he, hc]
      exact ⟨hmode, hsource, hpresc, hnew⟩

/-- A `CTL` write moves the counter only by its clear pulse (R82). -/
theorem writeCtl_tar (d : Word) (mc : RunMode) (t : Timer) :
    (writeCtl d mc t).tar = if d.getLsbD 2 then 0 else t.tar := by
  unfold writeCtl
  dsimp only
  split <;> rfl

@[simp] theorem acknowledge_tar (src : Option VecSource) (t : Timer) : (acknowledge src t).tar = t.tar := by
  match src with
  | none | some (.channel _) | some .overflow => rfl

/-- The four writers of the counter (R11), as stimuli. -/
theorem TimerEffect.tar_changed {s : State} {st : Stim} {t : Timer} (h : TimerEffect s st t) (ht : t.tar ≠ s.timer.tar) :
    (st = .src s.timer.tassel ∧ s.timer.mc ≠ .stopped ∧ s.timer.presc = 0 ∧ (t.tar = 0 ∨ t.tar = s.timer.tar + 1)) ∨
    (∃ d, st = .wr .ctl d ∧ d.getLsbD 2 = true ∧ t.tar = 0) ∨ (∃ d, st = .wr .r d ∧ t.tar = d) ∨
    (st = .reset ∧ t.tar = 0) := by
  cases h with
  | keep | rdCcr | wrCctl | wrCcr | wrEx0 | pin | sync | ack0 => exact absurd rfl ht
  | rdIv | wrIv => exact absurd (acknowledge_tar _ _) ht
  | wrCtl d mc hm =>
    rw [writeCtl_tar] at ht ⊢
    split at ht
    next hd => exact .inr (.inl ⟨d, rfl, hd, if_pos hd⟩)
    next => exact absurd rfl ht
  | wrR d => exact .inr (.inr (.inl ⟨d, rfl, rfl⟩))
  | reset => exact .inr (.inr (.inr ⟨rfl, rfl⟩))
  | src source =>
    obtain ⟨hmode, rfl, hpresc, hnew⟩ := sourceEdge_tar _ _ _ ht
    exact .inl ⟨rfl, hmode, hpresc, hnew⟩

/-! ## Channels under the operations -/

/-- The levels of a channel's two input lines (R20). -/
def Channel.lines (c : Channel) : Bool × Bool := (c.cciA, c.cciB)

theorem Channel.lines_ne_iff (c d : Channel) : c.lines ≠ d.lines ↔ c.cciA ≠ d.cciA ∨ c.cciB ≠ d.cciB := by
  simp only [Channel.lines, ne_eq, Prod.mk.injEq, not_and_or]

/-- `d` has every latched flag that `c` has, and the same input levels: what no hardware step undoes (R20, R24). -/
structure Channel.Keeps (c d : Channel) : Prop where
  cov : c.cov = true → d.cov = true
  ccifg : c.ccifg = true → d.ccifg = true
  lines : d.lines = c.lines

theorem Channel.Keeps.rfl {c : Channel} : c.Keeps c := ⟨id, id, Eq.refl _⟩

theorem Channel.Keeps.trans {c d e : Channel} (h : c.Keeps d) (g : d.Keeps e) : c.Keeps e :=
  ⟨g.cov ∘ h.cov, g.ccifg ∘ h.ccifg, g.lines.trans h.lines⟩

/-- A replacement that keeps the replaced channel keeps every channel. -/
theorem setChan_keeps {t : Timer} {k : Chan} {c : Channel} (hc : (t.chan k).Keeps c) (n : Chan) :
    (t.chan n).Keeps ((t.setChan k c).chan n) := by
  rw [Timer.setChan_chan]
  split
  next hn => rw [hn]; exact hc
  next => exact .rfl

theorem compareChannel_keeps (new : Word) (equ0 : Bool) (c : Channel) : c.Keeps (compareChannel new equ0 c) := by
  rw [compareChannel_eq]
  split
  · exact ⟨id, fun h => by simp [h], rfl⟩
  · exact .rfl

theorem capture_keeps (v : Word) (c : Channel) : c.Keeps (capture v c) :=
  ⟨fun h => by simp [capture, h], fun _ => rfl, rfl⟩

theorem syncFire_keeps (tar : Word) (c : Channel) : c.Keeps (syncFire tar c) := by
  have hdrop : c.Keeps { c with capReq := false } := ⟨id, id, rfl⟩
  unfold syncFire
  split
  · split
    · exact hdrop.trans (capture_keeps _ _)
    · exact hdrop
  · exact .rfl

theorem detectChange_keeps (fv : Word) (old : Bool) (c : Channel) : c.Keeps (detectChange fv old c) := by
  obtain ⟨-, -, -, hA, hB, -, -, hcov, hccifg⟩ := detectChange_frame fv old c
  exact ⟨hcov, hccifg, Prod.ext hA hB⟩

/-- No tick clears a channel's latched flags or moves its input lines. -/
theorem tick_chan_keeps (cfg : Cfg) (t : Timer) (n : Chan) : (t.chan n).Keeps ((tick cfg t).chan n) := by
  obtain hk | ⟨new, ovf, hc, -⟩ := tick_cases cfg t
  · rw [hk]; exact .rfl
  · rw [hc, countTo_chan]
    split
    · exact compareChannel_keeps _ _ _
    · exact .rfl

theorem sourceEdge_chan_keeps (cfg : Cfg) (source : ClockSource) (t : Timer) (n : Chan) :
    (t.chan n).Keeps ((sourceEdge cfg source t).chan n) := by
  obtain ⟨presc, he⟩ | ⟨-, -, -, he⟩ := sourceEdge_cases cfg source t
  · rw [he]; exact .rfl
  · rw [he]; exact tick_chan_keeps cfg { t with presc := prescReload t } n

/-- A `CCTL[n]` write can only latch flags on top of the channel it stores: the stored flags are the data's (R85). -/
theorem writeCctl_keeps (fv d : Word) (c : Channel) : (storeCctl d c).Keeps (writeCctl fv d c) := by
  have hout : (storeCctl d c).Keeps (followOut (storeCctl d c)) := by
    rw [followOut_eq]; exact ⟨id, id, rfl⟩
  exact hout.trans (detectChange_keeps _ _ _)

theorem resetTimer_chan_lines (cfg : Cfg) (t : Timer) (n : Chan) :
    ((resetTimer cfg t).chan n).lines = (t.chan n).lines := by
  rw [resetTimer_chan]
  split <;> rfl

theorem setLine_cov (line : Line) (level : Bool) (c : Channel) : (setLine line level c).cov = c.cov := by
  cases line <;> rfl

theorem setLine_ccifg (line : Line) (level : Bool) (c : Channel) : (setLine line level c).ccifg = c.ccifg := by
  cases line <;> rfl

/-! ## The acknowledge -/

/-- The vector register names a channel only while it is pending on the shared line (R203). -/
theorem sharedPending_of_highestPending {s : State} {n : Chan}
    (h : highestPending s.cfg s.timer = some (.channel n)) : SharedPending s n := by
  obtain ⟨m, hp, hlow⟩ | hnone := sharedPending_cases s
  · rw [highestPending_channel s m hp hlow] at h
    cases h
    exact hp
  · rw [highestPending_none s hnone] at h
    split at h <;> cases h

/-- The vector register names the overflow only while it is pending (R203). -/
theorem overflowPending_of_highestPending {s : State} (h : highestPending s.cfg s.timer = some .overflow) :
    overflowPending s.timer = true := by
  obtain ⟨m, hp, hlow⟩ | hnone := sharedPending_cases s
  · rw [highestPending_channel s m hp hlow] at h
    cases h
  · rw [highestPending_none s hnone] at h
    split at h
    · assumption
    · cases h

/-- Clearing a flag clears the named channel's and leaves the other channels alone. -/
theorem clearCcifg_chan (k n : Chan) (t : Timer) :
    (clearCcifg k t).chan n = if n = k then { t.chan n with ccifg := false } else t.chan n := by
  rw [clearCcifg, Timer.setChan_chan]
  split
  · subst_vars; rfl
  · rfl

/-- An acknowledge clears the flag of the channel it names and leaves the other channels alone (R205). -/
theorem acknowledge_chan (src : Option VecSource) (t : Timer) (n : Chan) :
    (acknowledge src t).chan n = if src = some (.channel n) then { t.chan n with ccifg := false } else t.chan n := by
  match src with
  | none | some .overflow => rfl
  | some (.channel k) =>
    rw [acknowledge, clearCcifg_chan]
    simp only [Option.some.injEq, VecSource.channel.injEq, eq_comm]

/-- An acknowledge clears the overflow flag only when it names the overflow (R205). -/
theorem acknowledge_taifg_cleared {src : Option VecSource} {t : Timer} (hb : t.taifg = true)
    (ha : (acknowledge src t).taifg = false) : src = some .overflow := by
  match src with
  | none | some (.channel _) => exact absurd (hb.symm.trans ha) (by decide)
  | some .overflow => rfl

/-! ## The effect of a stimulus on one channel -/

/-- An access of the vector register, read or write (R92, R93). -/
def VectorAccess (st : Stim) : Prop := st = .rd .iv ∨ ∃ d, st = .wr .iv d

/-- What carrying out a stimulus can leave of channel `n`, as far as the latched flags and the input levels go. -/
inductive ChannelEffect (s : State) (n : Chan) : Stim → Channel → Prop
  | keeps {st : Stim} {c : Channel} (hc : (s.timer.chan n).Keeps c) : ChannelEffect s n st c
  | stored {c : Channel} (d : Word) (hc : (storeCctl d (s.timer.chan n)).Keeps c) :
      ChannelEffect s n (.wr (.cctl n) d) c
  | acknowledged {st : Stim} (hv : VectorAccess st) (hp : SharedPending s n) :
      ChannelEffect s n st { s.timer.chan n with ccifg := false }
  | ack0 (hn : n = 0) : ChannelEffect s n .ack0 { s.timer.chan n with ccifg := false }
  | reset {c : Channel} (hl : c.lines = (s.timer.chan n).lines) : ChannelEffect s n .reset c
  | pin {c : Channel} (m : BitVec 3) (line : Line) (level : Bool) (hm : m.toNat = n.val)
      (hc : (setLine line level (s.timer.chan n)).Keeps c) : ChannelEffect s n (.pin m line level) c

/-- The acknowledge of a vector access on one channel. -/
theorem acknowledge_channelEffect {s : State} {st : Stim} (hv : VectorAccess st) (n : Chan) :
    ChannelEffect s n st ((acknowledge (highestPending s.cfg s.timer) s.timer).chan n) := by
  rw [acknowledge_chan]
  split
  next hn => exact .acknowledged hv (sharedPending_of_highestPending hn)
  next => exact .keeps .rfl

theorem TimerEffect.chan {s : State} {st : Stim} {t : Timer} (h : TimerEffect s st t) (n : Chan) :
    ChannelEffect s n st (t.chan n) := by
  cases h with
  | keep | wrR | wrEx0 => exact .keeps .rfl
  | rdCcr | wrCcr =>
    refine .keeps (setChan_keeps ?_ n)
    exact ⟨id, id, rfl⟩
  | rdIv => exact acknowledge_channelEffect (.inl rfl) n
  | wrIv d => exact acknowledge_channelEffect (.inr ⟨d, rfl⟩) n
  | wrCtl d mc hm =>
    obtain ⟨hchans, -⟩ := writeCtl_frame d mc s.timer
    rw [Timer.chan, hchans]
    exact .keeps .rfl
  | wrCctl k d fv hw =>
    rw [Timer.setChan_chan]
    split
    next hn => subst hn; exact .stored d (writeCctl_keeps _ _ _)
    next => exact .keeps .rfl
  | reset => exact .reset (resetTimer_chan_lines _ _ _)
  | src source => exact .keeps (sourceEdge_chan_keeps _ _ _ _)
  | pin m line level k fv hk =>
    rw [Timer.setChan_chan]
    split
    next hn =>
      subst hn
      exact .pin m line level ((eventChan_eq _ _ _).1 hk).1 (detectChange_keeps _ _ _)
    next => exact .keeps .rfl
  | sync m k hk => exact .keeps (setChan_keeps (syncFire_keeps _ _) n)
  | ack0 =>
    rw [clearCcifg_chan]
    split
    next hn => exact .ack0 hn
    next => exact .keeps .rfl

/-! ## What clears a flag and what moves an input line, as stimuli -/

/-- A flag that was set and is kept cannot be clear afterwards: such a case does not arise. -/
theorem flag_not_cleared {b c : Bool} {P : Prop} (hkeep : b = true → c = true) (hb : b = true) (hc : c = false) : P :=
  absurd ((hkeep hb).symm.trans hc) (by decide)

/-- A flag that is clear after what keeps set flags was clear before it. -/
theorem flag_clear_of_keep {b c : Bool} (hkeep : b = true → c = true) (hc : c = false) : b = false := by
  cases b
  · rfl
  · exact flag_not_cleared hkeep rfl hc

theorem ChannelEffect.cov_cleared {s : State} {st : Stim} {n : Chan} {c : Channel} (h : ChannelEffect s n st c)
    (hb : (s.timer.chan n).cov = true) (ha : c.cov = false) :
    (∃ d, st = .wr (.cctl n) d ∧ d.getLsbD 1 = false) ∨ st = .reset := by
  cases h with
  | keeps hc => exact flag_not_cleared hc.cov hb ha
  | stored d hc => exact .inl ⟨d, rfl, flag_clear_of_keep hc.cov ha⟩
  | acknowledged | ack0 => exact flag_not_cleared id hb ha
  | reset => exact .inr rfl
  | pin m line level hm hc => exact flag_not_cleared hc.cov ((setLine_cov _ _ _).trans hb) ha

theorem ChannelEffect.ccifg_cleared {s : State} {st : Stim} {n : Chan} {c : Channel} (h : ChannelEffect s n st c)
    (hb : (s.timer.chan n).ccifg = true) (ha : c.ccifg = false) :
    (∃ d, st = .wr (.cctl n) d ∧ d.getLsbD 0 = false) ∨ (VectorAccess st ∧ SharedPending s n) ∨
    (n = 0 ∧ st = .ack0) ∨ st = .reset := by
  cases h with
  | keeps hc => exact flag_not_cleared hc.ccifg hb ha
  | stored d hc => exact .inl ⟨d, rfl, flag_clear_of_keep hc.ccifg ha⟩
  | acknowledged hv hp => exact .inr (.inl ⟨hv, hp⟩)
  | ack0 hn => exact .inr (.inr (.inl ⟨hn, rfl⟩))
  | reset => exact .inr (.inr (.inr rfl))
  | pin m line level hm hc => exact flag_not_cleared hc.ccifg ((setLine_ccifg _ _ _).trans hb) ha

theorem ChannelEffect.lines_changed {s : State} {st : Stim} {n : Chan} {c : Channel} (h : ChannelEffect s n st c)
    (hl : c.lines ≠ (s.timer.chan n).lines) : ∃ m line level, st = .pin m line level ∧ m.toNat = n.val := by
  cases h with
  | keeps hc => exact absurd hc.lines hl
  | stored d hc => exact absurd hc.lines hl
  | acknowledged | ack0 => exact absurd rfl hl
  | reset hr => exact absurd hr hl
  | pin m line level hm hc => exact ⟨m, line, level, rfl, hm⟩

/-- A tick never clears the overflow flag. -/
theorem tick_taifg (cfg : Cfg) (t : Timer) (h : t.taifg = true) : (tick cfg t).taifg = true := by
  obtain hk | ⟨new, ovf, hc, -⟩ := tick_cases cfg t
  · rw [hk]; exact h
  · rw [hc, countTo_taifg, h]; rfl

theorem sourceEdge_taifg (cfg : Cfg) (source : ClockSource) (t : Timer) (h : t.taifg = true) :
    (sourceEdge cfg source t).taifg = true := by
  obtain ⟨presc, he⟩ | ⟨-, -, -, he⟩ := sourceEdge_cases cfg source t
  · rw [he]; exact h
  · rw [he]; exact tick_taifg cfg { t with presc := prescReload t } h

/-- A vector access that clears the overflow flag finds the overflow enabled. -/
theorem taie_of_acknowledge_taifg_cleared {s : State} (hb : s.timer.taifg = true)
    (ha : (acknowledge (highestPending s.cfg s.timer) s.timer).taifg = false) : s.timer.taie = true := by
  have hp := overflowPending_of_highestPending (acknowledge_taifg_cleared hb ha)
  simpa [overflowPending, hb] using hp

theorem TimerEffect.taifg_cleared {s : State} {st : Stim} {t : Timer} (h : TimerEffect s st t)
    (hb : s.timer.taifg = true) (ha : t.taifg = false) :
    (∃ d, st = .wr .ctl d ∧ d.getLsbD 0 = false) ∨ (VectorAccess st ∧ s.timer.taie = true) ∨ st = .reset := by
  cases h with
  | keep | rdCcr | wrCctl | wrR | wrCcr | wrEx0 | pin | sync | ack0 => exact flag_not_cleared id hb ha
  | rdIv => exact .inr (.inl ⟨.inl rfl, taie_of_acknowledge_taifg_cleared hb ha⟩)
  | wrIv d => exact .inr (.inl ⟨.inr ⟨d, rfl⟩, taie_of_acknowledge_taifg_cleared hb ha⟩)
  | wrCtl d mc hm =>
    obtain ⟨-, -, -, hflag⟩ := writeCtl_frame d mc s.timer
    exact .inl ⟨d, rfl, hflag.symm.trans ha⟩
  | reset => exact .inr (.inr rfl)
  | src source => exact flag_not_cleared (sourceEdge_taifg _ _ _) hb ha

end Sys2Proof.Machine
end

section
/-! The rules of the state: what a step runs, what it does to the run's bookkeeping, and which stimuli can write the counter,
clear a flag or move an input line. -/

namespace Sys2Proof.Machine

/-- The vector accesses as words. -/
theorem VectorAccess.word {st : Stim} (h : VectorAccess st) :
    st.encode = 0x2E0000 ∨ st.encode.toNat / 0x10000 = 0x6E := by
  obtain rfl | ⟨d, rfl⟩ := h
  · exact .inl rfl
  · exact .inr (encode_wr_register .iv d)

/-- A step at a known word that changes something of the timer carried out that word's stimulus. -/
theorem step_effect_at {s t : State} {w : StimWord} (hw : s.stimuli[s.pc]? = some w) (h : step s = .next t) :
    t.timer = s.timer ∨ ∃ st : Stim, st.encode = w ∧ TimerEffect s st t.timer := by
  obtain hk | ⟨st, hf, he⟩ := step_effect h
  · exact .inl hk
  · exact .inr ⟨st, Option.some.inj (hf.symm.trans hw), he⟩

/-- Settles O51: completed or refused, every word is one stimulus (`step_one`; R12, R23, R215). -/
theorem stepAdvancesOneStimulus : Obligations.StepAdvancesOneStimulus := by
  intro s t h
  obtain ⟨hcfg, hstimuli, -, -, hpc, ⟨href, hrec⟩ | ⟨cause, href, hrec, htimer⟩⟩ := step_one h
  · exact ⟨hpc, hcfg, hstimuli, href.trans, .inl ⟨href, hrec⟩⟩
  · exact ⟨hpc, hcfg, hstimuli, fun _ => href, .inr ⟨href, htimer, cause, hrec⟩⟩

/-- Settles O53: the four writers as stimuli (`TimerEffect.tar_changed`), each put as its word. -/
theorem counterWrittenOnlyByItsFourWriters : Obligations.CounterWrittenOnlyByItsFourWriters := by
  intro s t h hne
  obtain hk | ⟨st, hf, he⟩ := step_effect h
  · exact absurd (congrArg Timer.tar hk) hne
  refine ⟨st.encode, hf, ?_⟩
  obtain ⟨rfl, hmode, hpresc, hnew⟩ | ⟨d, rfl, hclear, h0⟩ | ⟨d, rfl, hd⟩ | ⟨rfl, h0⟩ := he.tar_changed hne
  · exact .inl ⟨encode_src_toNat _, hmode, hpresc, hnew⟩
  · refine .inr (.inl ⟨encode_wr_register .ctl d, ?_, h0⟩)
    exact (encode_wr_bit .ctl d 2 (by decide)).trans (by rw [hclear]; rfl)
  · exact .inr (.inr (.inl ⟨encode_wr_register .r d, by rw [hd, encode_wr_data]⟩))
  · exact .inr (.inr (.inr ⟨rfl, h0⟩))

/-- Settles O55: each flag's clearing stimuli, put as words. -/
theorem flagsPersistUntilCleared : Obligations.FlagsPersistUntilCleared := by
  intro s t w n hw h cctlWrite vectorAccess
  have hreg : ∀ d, (Stim.wr (.cctl n) d).encode.toNat / 0x10000 = 0x42 + 2 * n.val := fun d => by
    rw [encode_wr_register, Reg.cctl_offset_toNat]; omega
  have hclear : ∀ reg (d : Word) i, i < 16 → d.getLsbD i = false → (Stim.wr reg d).encode.toNat / 2 ^ i % 2 = 0 :=
    fun reg d i hi hd => by rw [encode_wr_bit reg d i hi, hd]; rfl
  obtain hk | ⟨st, rfl, he⟩ := step_effect_at hw h
  · rw [hk]
    exact ⟨flag_not_cleared id, flag_not_cleared id, flag_not_cleared id⟩
  refine ⟨fun hb ha => ?_, fun hb ha => ?_, fun hb ha => ?_⟩
  · obtain ⟨d, rfl, hd⟩ | rfl := (he.chan n).cov_cleared hb ha
    · exact .inl ⟨hreg d, hclear _ d 1 (by decide) hd⟩
    · exact .inr rfl
  · obtain ⟨d, rfl, hd⟩ | ⟨hv, hp⟩ | ⟨hn, rfl⟩ | rfl := (he.chan n).ccifg_cleared hb ha
    · exact .inl ⟨hreg d, by simpa using hclear _ d 0 (by decide) hd⟩
    · exact .inr (.inl ⟨hp.1, hv.word, hp⟩)
    · exact .inr (.inr (.inl ⟨hn, rfl⟩))
    · exact .inr (.inr (.inr rfl))
  · obtain ⟨d, rfl, hd⟩ | ⟨hv, hie⟩ | rfl := he.taifg_cleared hb ha
    · exact .inl ⟨encode_wr_register .ctl d, by simpa using hclear _ d 0 (by decide) hd⟩
    · exact .inr (.inl ⟨hv.word, hie⟩)
    · exact .inr (.inr rfl)

/-- Settles O56: a changed line leaves only the `PIN` case of the effect on that channel, put as its word (R62). -/
theorem inputLinesChangedOnlyByPin : Obligations.InputLinesChangedOnlyByPin := by
  intro s t n h hne
  rw [← Channel.lines_ne_iff] at hne
  obtain hk | ⟨st, hf, he⟩ := step_effect h
  · rw [hk] at hne
    exact absurd rfl hne
  obtain ⟨m, line, level, rfl, hm⟩ := (he.chan n).lines_changed hne
  have hword := encode_pin_toNat m line level
  have hline := line.code.isLt
  have hlevel := level.toNat_lt
  have hn := n.isLt
  exact ⟨_, hf, by omega, by omega⟩

/-- Settles O6: what a word decodes to is the instruction of a stimulus, and `step` runs it. -/
theorem stepRunsDecodedInstruction : Obligations.StepRunsDecodedInstruction := by
  intro s w i hw hd
  obtain ⟨st, -, rfl⟩ := decode_ok hd
  refine ⟨st.toInstr_wellFormed, ?_⟩
  unfold step fetch
  rw [hw]
  dsimp only
  rw [hd]

/-- Nothing is pending right after reset. -/
theorem not_sharedPending_reset (n : Chan) : ¬ SharedPending State.reset n := by
  rintro ⟨-, -, hflag, -⟩
  rw [show State.reset.timer.chan n = Channel.initial from Channels.initial_get n] at hflag
  cases hflag

/-- Settles O50: every channel is as at launch, nothing is recorded and nothing is pending. -/
theorem resetHasInvariant : Obligations.ResetHasInvariant := by
  have hchan : ∀ n, State.reset.timer.chan n = Channel.initial := Channels.initial_get
  have hinv : Inv State.reset :=
    ⟨fun n _ _ => by rw [hchan n]; rfl, fun n _ => hchan n, by simp [State.reset], by simp [State.reset],
      List.Pairwise.nil⟩
  have hiv : irqIv State.reset.cfg State.reset.timer = false := by
    unfold irqIv ivVal
    rw [highestPending_none _ not_sharedPending_reset]
    rfl
  exact ⟨hinv, rfl, rfl, hiv⟩

end Sys2Proof.Machine
end

section
/-! SUPPORT. The decoder on the words of the stimuli, and the words it rejects (R60 to R62, R72, R80). -/

namespace Sys2Proof

/-! ## Decoding undoes encoding -/

theorem reserved_kind (payload : BitVec 22) : ((Stim.reserved payload).encode.extractLsb' 22 2).toNat = 3 := by
  have hp := payload.isLt
  rw [(word_parts _).1, reserved_toNat]
  omega

theorem reserved_payload (payload : BitVec 22) : (Stim.reserved payload).encode.extractLsb' 0 22 = payload := by
  have hp := payload.isLt
  apply BitVec.eq_of_toNat_eq
  rw [BitVec.extractLsb'_toNat, reserved_toNat, Nat.shiftRight_zero]
  omega

/-- Every stimulus word decodes to its stimulus. -/
@[simp] theorem decodeStim_encode (st : Stim) : decodeStim st.encode = .ok st := by
  cases st with
  | rd reg => rw [Stim.encode, decodeStim_rd, busReg_offset]; rfl
  | wr reg d => rw [Stim.encode, decodeStim_wr, busReg_offset]; rfl
  | reset => rfl
  | src source => cases source <;> rfl
  | pin n line level => cases line <;> cases level <;> revert n <;> decide
  | sync n => revert n; decide
  | ack0 => rfl
  | reserved payload => rw [decodeStim, reserved_kind, reserved_payload]; rfl

theorem decode_encode (st : Stim) : decode st.encode = .ok st.toInstr := by
  rw [decode, decodeStim_encode]; rfl

/-! ## The rows that are stimuli -/

theorem Stim.toInstr_isDriverOp (st : Stim) : st.toInstr.isDriverOp = false := by
  match st with
  | .rd .ctl | .rd .r | .rd .ex0 | .rd .iv => rfl
  | .rd (.cctl n) | .rd (.ccr n) => fin_cases n <;> rfl
  | .wr .ctl _ | .wr .r _ | .wr .ex0 _ | .wr .iv _ => rfl
  | .wr (.cctl n) _ | .wr (.ccr n) _ => fin_cases n <;> rfl
  | .reset | .src _ | .pin _ _ _ | .sync _ | .ack0 | .reserved _ => rfl

/-- A row that is no driver operation is a stimulus' row; its one stimulus is the one its expansion names. -/
theorem Instr.eq_toInstr_of_not_driverOp {i : Instr} (h : i.isDriverOp = false) : ∃ st : Stim, i = st.toInstr := by
  have hstims : ∃ st, i.stims 0 = [st] ∧ i = st.toInstr := by
    cases i <;> cases h -- leaves the rows of the stimuli
    all_goals exact ⟨_, rfl, rfl⟩
  obtain ⟨st, -, hst⟩ := hstims
  exact ⟨st, hst⟩

theorem encode_toInstr (st : Stim) (v : Word) : Sys2Proof.encode st.toInstr v = [st.encode] := by
  rw [Sys2Proof.encode, Stim.toInstr_stims]; rfl

/-! ## The rejected words -/

theorem except_map_eq_error_iff {ε α β : Type} (g : α → β) (x : Except ε α) (e : ε) :
    x.map g = .error e ↔ x = .error e := by
  cases x <;> simp [Except.map]

theorem decode_eq_error_iff (w : StimWord) (e : Reject) : decode w = .error e ↔ decodeStim w = .error e :=
  except_map_eq_error_iff _ _ _

/-- The checks of R80 on a bus word's offset: odd, then outside the map. -/
theorem busReg_eq_error_iff (off : BitVec 6) (e : Reject) :
    busReg off = .error e ↔
      (off.toNat % 2 = 1 ∧ e = .oddOffset off) ∨
      (off.toNat % 2 = 0 ∧ 0x20 < off.toNat ∧ off.toNat ≠ 0x2E ∧ e = .unmapped off) := by
  have hparity : off.getLsbD 0 = decide (off.toNat % 2 = 1) := by
    simp [BitVec.getLsbD, Nat.testBit_zero]
  unfold busReg
  split
  case isTrue hodd =>
    rw [hparity, decide_eq_true_eq] at hodd
    simp [hodd, eq_comm]
  case isFalse heven =>
    have hbit := Bool.eq_false_iff.2 heven
    rw [hparity, decide_eq_true_eq, Nat.mod_two_not_eq_one] at heven
    have hmap := regAt_eq_none off hbit
    cases hr : regAt off with
    | some reg =>
      rw [hr] at hmap
      simp only [reduceCtorEq, false_iff] at hmap
      simp only [heven, reduceCtorEq, Nat.zero_ne_one, false_and, true_and, false_or, false_iff]
      exact fun ⟨hlo, hne, _⟩ => hmap ⟨hlo, hne⟩
    | none =>
      obtain ⟨hlo, hne⟩ := hmap.1 hr
      simp [heven, hlo, hne, eq_comm]

/-- The event codes R62 lists, each with the arguments that set no reserved bit. -/
abbrev ListedEvent (evcode arg : Nat) : Prop :=
  (evcode = 0 ∧ arg = 0) ∨ (evcode = 1 ∧ arg < 4) ∨ (evcode = 2 ∧ arg < 128 ∧ arg / 4 % 4 = 0) ∨
    (evcode = 3 ∧ arg < 8) ∨ (evcode = 4 ∧ arg = 0)

theorem ite_ok_error_eq_error_iff {ε α : Type} {p : Prop} [Decidable p] {a : α} {b e : ε} :
    (if p then Except.ok a else .error b) = .error e ↔ ¬ p ∧ e = b := by
  split <;> simp_all [eq_comm]

theorem decodeEvent_eq_error_iff (w : StimWord) (f : BitVec 6) (x : Word) (e : Reject) :
    decodeEvent w f x = .error e ↔ ¬ ListedEvent f.toNat x.toNat ∧ e = .badEvent w := by
  have hzero : x = 0 ↔ x.toNat = 0 := BitVec.toNat_inj.symm
  unfold decodeEvent
  split
  case h_1 he => rw [ite_ok_error_eq_error_iff, hzero]; simp [he]
  case h_2 he => rw [ite_ok_error_eq_error_iff, and_srcMask]; simp [he]
  case h_3 he => rw [ite_ok_error_eq_error_iff, and_pinMask]; simp [he]
  case h_4 he => rw [ite_ok_error_eq_error_iff, and_syncMask]; simp [he]
  case h_5 he => rw [ite_ok_error_eq_error_iff, hzero]; simp [he]
  case h_6 h0 h1 h2 h3 h4 =>
    have hlisted : ¬ ListedEvent f.toNat x.toNat := by simp_all
    simp [hlisted, eq_comm]

/-- A read word with data, R61. -/
theorem decodeStim_rd_data (f : BitVec 6) {x : Word} (hx : x ≠ 0) :
    decodeStim (stimWord 0 f x) = .error (.readDataNonzero (stimWord 0 f x)) := by
  rw [decodeStim, stimWord_kind, stimWord_data]
  exact if_pos hx

theorem decodeStim_reserved (f : BitVec 6) (x : Word) :
    decodeStim (stimWord 3 f x) = .ok (.reserved ((stimWord 3 f x).extractLsb' 0 22)) := by
  rw [decodeStim, stimWord_kind]; rfl

/-- The rejections of a word given by its parts, kind by kind. -/
theorem decodeStim_eq_error_iff (k : BitVec 2) (f : BitVec 6) (x : Word) (e : Reject) :
    decodeStim (stimWord k f x) = .error e ↔
      (k.toNat = 0 ∧ x.toNat ≠ 0 ∧ e = .readDataNonzero (stimWord k f x)) ∨
      ((k.toNat = 1 ∨ (k.toNat = 0 ∧ x.toNat = 0)) ∧ busReg f = .error e) ∨
      (k.toNat = 2 ∧ decodeEvent (stimWord k f x) f x = .error e) := by
  have hkind : k = 0 ∨ k = 1 ∨ k = 2 ∨ k = 3 := by revert k; decide
  rcases hkind with rfl | rfl | rfl | rfl
  case inl =>
    by_cases hx : x = 0
    · subst hx
      rw [decodeStim_rd, except_map_eq_error_iff]
      simp
    · have hn : x.toNat ≠ 0 := fun h => hx (BitVec.eq_of_toNat_eq h)
      rw [decodeStim_rd_data f hx]
      simp [hn, eq_comm]
  case inr.inl => rw [decodeStim_wr, except_map_eq_error_iff]; simp
  case inr.inr.inl => rw [decodeStim_event]; simp
  case inr.inr.inr => rw [decodeStim_reserved]; simp


/-! ## The words of bus accesses and of `SYNC` -/

/-- A write's word is the register's read word with the kind bit and the data put in (R60, R61). -/
theorem encode_wr (reg : Reg) (d : Word) :
    (Stim.wr reg d).encode = 0x400000#24 ||| (Stim.rd reg).encode ||| d.setWidth 24 := by
  simp [Stim.encode, stimWord]

theorem encode_rd_ctl : (Stim.rd .ctl).encode = 0x000000#24 := rfl

theorem encode_rd_cctl (n : Chan) : (Stim.rd (.cctl n)).encode = BitVec.ofNat 24 (0x020000 + 0x020000 * n.val) := by
  revert n; decide

theorem encode_rd_ccr (n : Chan) : (Stim.rd (.ccr n)).encode = BitVec.ofNat 24 (0x120000 + 0x020000 * n.val) := by
  revert n; decide

theorem encode_wr_ctl (d : Word) : (Stim.wr .ctl d).encode = 0x400000#24 ||| d.setWidth 24 := by
  rw [encode_wr, encode_rd_ctl]; rfl

/-- A field of the data keeps its place in the word. -/
theorem setWidth_fieldAt {w : Nat} (v : BitVec w) (lo : Nat) (h : w + lo ≤ 16) :
    (fieldAt v lo).setWidth 24 = v.setWidth 24 <<< lo := by
  ext i hi
  by_cases hv : i - lo < w
  · have h16 : ¬ i < lo → i < 16 := by omega
    have hlt : i - lo < 16 := by omega
    by_cases hlo : i < lo <;> simp [fieldAt, hlo, hlt, h16]
  · have hbit : v.getLsbD (i - lo) = false := BitVec.getLsbD_of_ge _ _ (by omega)
    simp [fieldAt, hbit]

theorem encode_sync_toNat (n : BitVec 3) : (Stim.sync n).encode.toNat = 0x830000 + n.toNat := by
  rw [Stim.encode, stimWord_toNat, fieldAt_zero_toNat n (by decide)]; rfl

end Sys2Proof
end

section
/-! SUPPORT. The words of the driver operations (R70), a run over the words of one of two transactions, and events on a
channel that is not wired. Then the statements on encoding. -/

namespace Sys2Proof.Machine

/-! ## The words of the driver operations, R70 -/

theorem encode_configClock (source : ClockSource) (divider : PrimaryDivider) (v : Word) :
    encode (.configClock source divider) v =
      [0x400000#24 ||| source.code.setWidth 24 <<< 8 ||| divider.code.setWidth 24 <<< 6] := by
  show [(Stim.wr .ctl (configClockData source divider)).encode] = _
  rw [encode_wr_ctl, configClockData, BitVec.setWidth_or, setWidth_fieldAt _ _ (by decide),
    setWidth_fieldAt _ _ (by decide), BitVec.or_assoc]

theorem encode_chConfigOutputMode (n : Chan) (mode : OutputMode) (v : Word) :
    encode (.chConfigOutputMode n mode) v =
      [0x400000#24 ||| BitVec.ofNat 24 (0x020000 + 0x020000 * n.val) ||| mode.code.setWidth 24 <<< 5] := by
  show [(Stim.wr (.cctl n) (configOutputModeData mode)).encode] = _
  rw [encode_wr, encode_rd_cctl, configOutputModeData, setWidth_fieldAt _ _ (by decide)]

theorem encode_chConfigCaptureMode (n : Chan) (edge : CaptureEdge) (input : CaptureInput) (v : Word) :
    encode (.chConfigCaptureMode n edge input) v =
      [0x400900#24 ||| BitVec.ofNat 24 (0x020000 + 0x020000 * n.val) ||| edge.code.setWidth 24 <<< 14 |||
        input.code.setWidth 24 <<< 12] := by
  have hbase (c : StimWord) : 0x400900#24 ||| c = 0x400000#24 ||| c ||| (0x0900 : Word).setWidth 24 := by
    rw [BitVec.or_assoc, BitVec.or_comm c, ← BitVec.or_assoc]; rfl
  show [(Stim.wr (.cctl n) (configCaptureModeData edge input)).encode] = _
  rw [encode_wr, encode_rd_cctl, configCaptureModeData, BitVec.setWidth_or, BitVec.setWidth_or,
    setWidth_fieldAt _ _ (by decide), setWidth_fieldAt _ _ (by decide), hbase, BitVec.or_comm _ (BitVec.setWidth 24 _),
    ← BitVec.or_assoc, ← BitVec.or_assoc]

/-- The read-modify-write operations on `CTL` are the `RD`, then the `WR` of R70's data. -/
theorem stims_ctlModifies {p : Instr × (Word → Word)} (hp : p ∈ ctlModifies) (v : Word) :
    p.1.stims v = [.rd .ctl, .wr .ctl (p.2 v)] := by
  simp only [ctlModifies, List.mem_cons, List.not_mem_nil, or_false] at hp
  rcases hp with rfl | rfl | rfl | rfl | rfl | rfl | rfl <;> rfl

theorem stims_cctlModifies {n : Chan} {p : Instr × (Word → Word)} (hp : p ∈ cctlModifies n) (v : Word) :
    p.1.stims v = [.rd (.cctl n), .wr (.cctl n) (p.2 v)] := by
  simp only [cctlModifies, List.mem_cons, List.not_mem_nil, or_false] at hp
  rcases hp with rfl | rfl | rfl | rfl <;> rfl

/-! ## A read-modify-write operation and its words -/

@[simp] theorem applyWord_encode (st : Stim) (s : State) : applyWord st.encode s = applyStim st s := by
  rw [applyWord, decodeStim_encode]

/-- The gap may be used up after its words as well as before them. -/
theorem fillGap_cons {s : State} {gap : List StimWord} {rest : List (List StimWord)} (h : s.gaps = gap :: rest) :
    fillGap s = { applyWords gap s with gaps := rest, result := s.result } := by
  unfold fillGap
  rw [h]
  exact applyWords_model_fields gap s rest s.result

/-- `RD`, the words in between, `WR`: the words of a read-modify-write operation carried out one by one. -/
theorem applyWords_modify (reg : Reg) (gap : List StimWord) (d : Word) (s : State) :
    applyWords ([(Stim.rd reg).encode] ++ gap ++ [(Stim.wr reg d).encode]) s =
      busWrite reg d (applyWords gap (busRead reg s)) := by
  rw [applyWords_append, applyWords_append]
  simp only [applyWords, applyWord_encode, applyStim]

/-- The operation ends where its words end, but for the result and the used-up gap (R243). -/
theorem driverModify_eq_applyWords {s : State} {gap : List StimWord} {rest : List (List StimWord)} {reg : Reg}
    {v : Word} (f : Word → Word) (hgaps : s.gaps = gap :: rest) (hread : (busRead reg s).rdata = some v) :
    driverModify reg f s =
      { applyWords ([(Stim.rd reg).encode] ++ gap ++ [(Stim.wr reg (f v)).encode]) s with
        gaps := rest, result := none } := by
  obtain ⟨-, -, hkept, -⟩ := busRead_one reg s
  have hwrite := applyStim_model_fields (.wr reg (f v)) (applyWords gap (busRead reg s)) rest (busRead reg s).result
  rw [applyWords_modify, driverModify, hread, fillGap_cons (hkept.trans hgaps)]
  exact congrArg (fun u : State => { u with result := none }) hwrite

/-- A run over the words of a read-modify-write operation ends where the operation ends, but for the result and the
used-up gap (R46, R70, R243). -/
theorem run_words_driverModify {s : State} {gap : List StimWord} {rest : List (List StimWord)} {reg : Reg}
    {v : Word} (f : Word → Word) (hgaps : s.gaps = gap :: rest) (hread : (busRead reg s).rdata = some v)
    (hwords : (s.stimuli.drop s.pc).take (gap.length + 2) =
      [(Stim.rd reg).encode] ++ gap ++ [(Stim.wr reg (f v)).encode]) :
    ∃ t, core.run (gap.length + 2) s = .next t ∧
      { t with gaps := rest, result := none } = driverModify reg f s := by
  have hlen : ([(Stim.rd reg).encode] ++ gap ++ [(Stim.wr reg (f v)).encode]).length = gap.length + 2 := by simp
  refine ⟨_, ?_, (driverModify_eq_applyWords f hgaps hread).symm⟩
  rw [← hlen]
  exact run_words _ s (by rw [hlen]; exact hwords)

/-! ## Events on a channel that is not wired, R62 -/

/-- No channel above the last wired one is an event's (R62). -/
theorem eventChan_unwired {cfg : Cfg} {n : BitVec 3} (h : cfg.lastCh.val < n.toNat) : eventChan cfg n = none := by
  unfold eventChan
  split
  · exact if_neg (by rw [wired_iff, Fin.le_def]; exact not_le.2 h)
  · rfl

theorem evPin_unwired {s : State} {n : BitVec 3} (h : s.cfg.lastCh.val < n.toNat) (line : Line) (level : Bool) :
    evPin n line level s = refuse (.rf6 (Stim.pin n line level).encode) s := by
  rw [evPin, eventChan_unwired h]

theorem evSync_unwired {s : State} {n : BitVec 3} (h : s.cfg.lastCh.val < n.toNat) :
    evSync n s = refuse (.rf6 (Stim.sync n).encode) s := by
  rw [evSync, eventChan_unwired h]

/-! ## The statements -/

/-- Settles O1: such a row is that of a stimulus (`eq_toInstr_of_not_driverOp`), and decoding undoes its encoding. -/
theorem stimulusRowsDecodeTheirWord : Obligations.StimulusRowsDecodeTheirWord := by
  intro i v h
  obtain ⟨st, rfl⟩ := Instr.eq_toInstr_of_not_driverOp h
  exact ⟨st.encode, encode_toInstr st v, decode_encode st⟩

/-- Settles O2: the decoder keeps every bit of the word (`encode_of_decodeStim`). -/
theorem decodedWordEncodesBack : Obligations.DecodedWordEncodesBack := by
  intro w i v h
  obtain ⟨st, hst, rfl⟩ := decode_ok h
  exact ⟨by rw [encode_toInstr, encode_of_decodeStim hst], st.toInstr_isDriverOp⟩

/-- Settles O3: the words of the expansions' stimuli, operation by operation. -/
theorem driverOperationWords : Obligations.DriverOperationWords := by
  intro v
  refine ⟨fun source divider => encode_configClock source divider v, fun e => ?setExpansionDivider,
    fun p hp => ?ctlModifies, ?ctlReads,
    fun n => ⟨fun mode => encode_chConfigOutputMode n mode v,
      fun edge input => encode_chConfigCaptureMode n edge input v, fun x => ?chSetValue, ?chGetValue, ?cctlReads,
      fun p hp => ?cctlModifies⟩, rfl⟩
  case setExpansionDivider =>
    show [(Stim.wr .ex0 (expansionDividerData e)).encode] = _
    rw [encode_wr]; rfl
  case ctlModifies =>
    rw [encode, stims_ctlModifies hp, List.map_cons, List.map_singleton, encode_rd_ctl, encode_wr_ctl]
  case ctlReads => simp only [List.forall_mem_cons]; exact ⟨rfl, rfl, nofun⟩
  case chSetValue =>
    show [(Stim.wr (.ccr n) x).encode] = _
    rw [encode_wr, encode_rd_ccr]
  case chGetValue => exact congrArg (fun w => [w]) (encode_rd_ccr n)
  case cctlReads =>
    have hword := congrArg (fun w => [w]) (encode_rd_cctl n)
    simp only [List.forall_mem_cons]
    exact ⟨hword, hword, nofun⟩
  case cctlModifies =>
    rw [encode, stims_cctlModifies hp, List.map_cons, List.map_singleton, encode_wr, encode_rd_cctl]

/-- Settles O4: the checks on the three parts of the word, put as numbers. -/
theorem rejectedWordsAreTheListedOnes : Obligations.RejectedWordsAreTheListedOnes := by
  intro w e kind off data bus
  obtain ⟨hkind, hoff, hdata⟩ := word_parts w
  have hfield : BitVec.ofNat 6 off = w.extractLsb' 16 6 := by
    rw [show off = (w.extractLsb' 16 6).toNat from hoff.symm, BitVec.ofNat_toNat, BitVec.setWidth_eq]
  have h := decodeStim_eq_error_iff (w.extractLsb' 22 2) (w.extractLsb' 16 6) (w.extractLsb' 0 16) e
  rw [stimWord_eta, busReg_eq_error_iff, decodeEvent_eq_error_iff, hkind, hoff, hdata] at h
  rw [decode_eq_error_iff, h, hfield, and_or_left, or_assoc]

/-- Settles O48: on either register the words are those of the operation's `RD` and `WR`, and
`run_words_driverModify` runs them. -/
theorem driverOperationRefinesItsWords : Obligations.DriverOperationRefinesItsWords := by
  intro s gap rest n hgaps
  refine ⟨fun p hp v hread hwords => ?ctl, fun _ p hp v hread hwords => ?cctl⟩
  case ctl =>
    have hv : (busRead .ctl s).rdata = some v := congrArg State.rdata (Host.Outcome.next.inj hread)
    rw [← encode_wr_ctl] at hwords
    obtain ⟨t, hrun, ht⟩ := run_words_driverModify p.2 hgaps hv hwords
    exact ⟨t, _, hrun, exec_ctlModifies hp s, ht⟩
  case cctl =>
    have hv : (busRead (.cctl n) s).rdata = some v := congrArg State.rdata (Host.Outcome.next.inj hread)
    rw [← encode_rd_cctl, ← encode_wr] at hwords
    obtain ⟨t, hrun, ht⟩ := run_words_driverModify p.2 hgaps hv hwords
    exact ⟨t, _, hrun, exec_cctlModifies hp s, ht⟩

/-- Settles O5: each word is the word of the stimulus it stands for. -/
theorem wordsFromTheSpecDecode : Obligations.WordsFromTheSpecDecode :=
  ⟨decode_encode (.rd .ctl), decode_encode (.wr .ctl 0x0180), decode_encode (.rd (.cctl 6)),
    decode_encode (.wr (.cctl 2) 0x4900), decode_encode (.wr (.ccr 0) 0x03E8), decode_encode (.rd .iv),
    decode_encode (.wr .ex0 0x0007), decode_encode .reset, decode_encode (.src .internalLowPower),
    decode_encode (.pin 2 .b true), decode_encode (.sync 6), decode_encode .ack0⟩

/-- Settles O31: no channel is found for the event, and what is recorded is its word. -/
theorem eventOnUnwiredChannelRefused : Obligations.EventOnUnwiredChannelRefused := by
  intro s n h
  refine ⟨fun line level => ⟨(Stim.pin n line level).encode, ?_, ?_⟩,
    (Stim.sync n).encode, encode_sync_toNat n, ?_⟩
  · rw [encode_pin_toNat]
    cases line <;> cases level <;> rfl
  · rw [exec_pin, evPin_unwired h]; rfl
  · rw [exec_sync, evSync_unwired h]; rfl

/-- Settles O33: the recorded word is the reserved stimulus' own. -/
theorem reservedKindRefused : Obligations.ReservedKindRefused :=
  fun s payload => ⟨_, reserved_toNat payload, exec_reservedKind payload s⟩

end Sys2Proof.Machine
end

section
/-! SUPPORT. What the bus registers' reads and writes answer, one lemma per outcome, and the fields they store as numbers
(R80 to R94). -/

namespace Sys2Proof.Machine

/-! ## The rows by channel, as stimuli -/

/-- The instruction of a row in a list that gives one row per channel. -/
theorem row_eq_of_mem {rows : List (Chan × Instr)} {f : Chan → Instr} {p : Chan × Instr}
    (hrows : rows = (List.finRange 7).map fun n => (n, f n)) (hp : p ∈ rows) : p.2 = f p.1 := by
  rw [hrows, List.mem_map] at hp
  obtain ⟨n, -, rfl⟩ := hp
  rfl

theorem toInstr_of_mem_cctlReads {p : Chan × Instr} (hp : p ∈ cctlReads) : p.2 = (Stim.rd (.cctl p.1)).toInstr :=
  row_eq_of_mem (f := fun n => (Stim.rd (.cctl n)).toInstr) rfl hp

theorem toInstr_of_mem_ccrReads {p : Chan × Instr} (hp : p ∈ ccrReads) : p.2 = (Stim.rd (.ccr p.1)).toInstr :=
  row_eq_of_mem (f := fun n => (Stim.rd (.ccr n)).toInstr) rfl hp

theorem toInstr_of_mem_ccrWrites {d : Word} {p : Chan × Instr} (hp : p ∈ ccrWrites d) :
    p.2 = (Stim.wr (.ccr p.1) d).toInstr :=
  row_eq_of_mem (f := fun n => (Stim.wr (.ccr n) d).toInstr) rfl hp

/-- The word of `RD CCTLn` by its offset, R41. -/
theorem encode_rd_cctl_offset (n : Chan) :
    (Stim.rd (.cctl n)).encode = BitVec.ofNat 24 ((0x02 + 2 * n.val) * 0x10000) := by
  rw [encode_rd_cctl]; congr 1; omega

/-- The word of `RD CCRn` by its offset, R41. -/
theorem encode_rd_ccr_offset (n : Chan) :
    (Stim.rd (.ccr n)).encode = BitVec.ofNat 24 ((0x12 + 2 * n.val) * 0x10000) := by
  rw [encode_rd_ccr]; congr 1; omega

/-! ## Channel registers, wired or not (R80, D13) -/

section
variable {s : State} {n : Chan}

theorem rdCctl_wired (h : wired s.cfg n = true) : rdCctl n s = answer (cctlWord (s.timer.chan n)) s.timer s :=
  if_pos h

theorem rdCctl_unwired (h : wired s.cfg n = false) : rdCctl n s = refuse (.rf4 n) s :=
  if_neg (ne_true_of_eq_false h)

theorem rdCcr_wired (h : wired s.cfg n = true) :
    rdCcr n s = answer (s.timer.chan n).ccr (s.timer.setChan n { s.timer.chan n with unread := false }) s :=
  if_pos h

theorem rdCcr_unwired (h : wired s.cfg n = false) : rdCcr n s = refuse (.rf4 n) s :=
  if_neg (ne_true_of_eq_false h)

theorem wrCctl_wired (d : Word) (h : wired s.cfg n = true) :
    wrCctl n d s =
      complete (s.timer.setChan n (writeCctl (Config.draw s.draws) d (s.timer.chan n)))
        { s with draws := s.draws + 1 } :=
  if_pos h

theorem wrCctl_unwired (d : Word) (h : wired s.cfg n = false) : wrCctl n d s = refuse (.rf4 n) s :=
  if_neg (ne_true_of_eq_false h)

theorem wrCcr_wired (d : Word) (h : wired s.cfg n = true) :
    wrCcr n d s = complete (s.timer.setChan n { s.timer.chan n with ccr := d }) s :=
  if_pos h

theorem wrCcr_unwired (d : Word) (h : wired s.cfg n = false) : wrCcr n d s = refuse (.rf4 n) s :=
  if_neg (ne_true_of_eq_false h)

/-- A read-modify-write of an unwired channel's control register: both transactions are refused, whatever data the free
value gives, and what falls between is carried out (log 8). -/
theorem driverModify_cctl_unwired (f : Word → Word) (h : wired s.cfg n = false) :
    driverModify (.cctl n) f s = { refuse (.rf4 n) (fillGap (refuse (.rf4 n) s)) with result := none } := by
  have hread : busRead (.cctl n) s = refuse (.rf4 n) s := rdCctl_unwired h
  have hgap : wired (fillGap (refuse (.rf4 n) s)).cfg n = false := by rw [fillGap_cfg, refuse_cfg, h]
  have hwrite (d : Word) : busWrite (.cctl n) d (fillGap (refuse (.rf4 n) s)) =
      refuse (.rf4 n) (fillGap (refuse (.rf4 n) s)) := wrCctl_unwired d hgap
  simp only [driverModify, hread, hwrite]

end

/-- A capture after the last value was read leaves `COV` as it is (R165). -/
theorem capture_cov_of_read {c : Channel} (v : Word) (h : c.unread = false) : (capture v c).cov = c.cov := by
  simp only [capture, h, Bool.or_false]

/-- The flag of a channel after a tick: set at EQUn, in Compare role only (R151, R158). -/
theorem compareChannel_ccifg (new : Word) (equ0 : Bool) (c : Channel) :
    (compareChannel new equ0 c).ccifg = (c.ccifg || (!c.cap && decide (new = c.ccr))) := by
  rw [compareChannel_eq]
  cases hcap : c.cap <;> simp

/-! ## The vector register -/

/-- `RD IV` reports a source and acknowledges that one (R92). -/
theorem rdIv_of_highestPending {s : State} {src : Option VecSource} (h : highestPending s.cfg s.timer = src) :
    rdIv s = answer (vecCode src) (acknowledge src s.timer) s := by
  rw [rdIv, ivVal, h]

theorem overflowPending_iff (t : Timer) : overflowPending t = true ↔ t.taifg = true ∧ t.taie = true :=
  Bool.and_eq_true_iff

/-! ## `CTL` -/

/-- The mode field of a data word names no run mode exactly when it is 3 (R66, R83). -/
theorem modeField_eq_none_iff (d : Word) :
    RunMode.ofCode (d.extractLsb' 4 2) = none ↔ d.toNat / 16 % 4 = 3 := by
  rw [RunMode.ofCode_eq_none, ← BitVec.toNat_inj, field_toNat]; rfl

theorem modeField_ne_three {d : Word} (h : d.toNat / 16 % 4 ≠ 3) :
    ∃ mc, RunMode.ofCode (d.extractLsb' 4 2) = some mc ∧ mc.code.toNat = d.toNat / 16 % 4 := by
  obtain ⟨mc, hmc⟩ := Option.ne_none_iff_exists'.1 (mt (modeField_eq_none_iff d).1 h)
  exact ⟨mc, hmc, by rw [RunMode.code_of_ofCode _ _ hmc, field_toNat]; rfl⟩

theorem wrCtl_of_mode {d : Word} {mc : RunMode} (h : RunMode.ofCode (d.extractLsb' 4 2) = some mc) (s : State) :
    wrCtl d s = complete (writeCtl d mc s.timer) s := by
  rw [wrCtl, h]

theorem wrCtl_of_no_mode {d : Word} (h : RunMode.ofCode (d.extractLsb' 4 2) = none) (s : State) :
    wrCtl d s = refuse (.rf7 d) s := by
  rw [wrCtl, h]

/-- A `CTL` write is the store, then the clear pulse on the counter and the divider chain (R82). -/
theorem writeCtl_eq (d : Word) (mc : RunMode) (t : Timer) :
    writeCtl d mc t =
      { storeCtl d mc t with
        tar := if d.getLsbD 2 then 0 else t.tar
        presc := if d.getLsbD 2 then prescReload (storeCtl d mc t) else t.presc } := by
  unfold writeCtl
  dsimp only
  split <;> rfl

/-- The fields a `CTL` write stores, as numbers (R63). -/
theorem storeCtl_fields (d : Word) (mc : RunMode) (t : Timer) :
    (storeCtl d mc t).tassel.code.toNat = d.toNat / 256 % 4 ∧ (storeCtl d mc t).id.code.toNat = d.toNat / 64 % 4 ∧
    (storeCtl d mc t).taie = decide (d.toNat / 2 % 2 = 1) ∧ (storeCtl d mc t).taifg = decide (d.toNat % 2 = 1) := by
  simp only [storeCtl, ClockSource.code_ofCode, PrimaryDivider.code_ofCode, field_toNat, bit_eq_decide, Nat.reducePow,
    Nat.div_one, and_self]

/-! ## `CCTL[n]` -/

theorem outputMode_eq_out_iff (m : OutputMode) : m = .out ↔ m.code.toNat = 0 := by
  cases m <;> decide

/-- The fields a `CCTL[n]` write stores, as numbers (R64). -/
theorem storeCctl_fields (d : Word) (c : Channel) :
    (storeCctl d c).cm.code.toNat = d.toNat / 16384 ∧ (storeCctl d c).ccis.code.toNat = d.toNat / 4096 % 4 ∧
    (storeCctl d c).scs = decide (d.toNat / 2048 % 2 = 1) ∧ (storeCctl d c).cap = decide (d.toNat / 256 % 2 = 1) ∧
    (storeCctl d c).outmod.code.toNat = d.toNat / 32 % 8 ∧ (storeCctl d c).ccie = decide (d.toNat / 16 % 2 = 1) ∧
    (storeCctl d c).out = decide (d.toNat / 4 % 2 = 1) ∧ (storeCctl d c).cov = decide (d.toNat / 2 % 2 = 1) ∧
    (storeCctl d c).ccifg = decide (d.toNat % 2 = 1) := by
  have htop : d.toNat / 16384 % 4 = d.toNat / 16384 := Nat.mod_eq_of_lt (by have := d.isLt; omega)
  simp only [storeCctl, CaptureEdge.code_ofCode, CaptureInput.code_ofCode, OutputMode.code_ofCode, field_toNat,
    bit_eq_decide, Nat.reducePow, Nat.div_one, htop, and_self]

/-- The output after a `CCTL[n]` write, before any edge: the `OUT` bit written in output mode 0, else kept (R155). -/
theorem followOut_storeCctl_outSig (d : Word) (c : Channel) :
    (followOut (storeCctl d c)).outSig =
      if d.toNat / 32 % 8 = 0 then decide (d.toNat / 4 % 2 = 1) else c.outSig := by
  obtain ⟨-, -, -, -, houtmod, -, hout, -⟩ := storeCctl_fields d c
  simp only [followOut_eq, outputMode_eq_out_iff, houtmod, hout]
  rfl

/-- What a `CCTL[n]` write leaves is what a change of the selected level leaves of the stored channel (R85, R162). -/
theorem writeCctl_outcome (fv d : Word) (c : Channel) :
    EdgeOutcome fv (cciSel c) (followOut (storeCctl d c)) (writeCctl fv d c) :=
  detectChange_outcome fv (cciSel c) (followOut (storeCctl d c))

/-! ## Counting past the top -/

/-- In Up mode a counter at or above a top that is not 0 wraps at the next tick (R128, R131). -/
theorem tick_up_of_top_le (cfg : Cfg) {t : Timer} (hmode : t.mc = .up) (htop : (t.chan 0).ccr ≠ 0)
    (hle : (t.chan 0).ccr ≤ t.tar) : tick cfg t = countTo cfg 0 true t := by
  simp only [tick, hmode, htop, hle, if_false, if_true]

end Sys2Proof.Machine
end

section
/-! The statements on the bus registers: what each read and write answers, stores and leaves alone. -/

namespace Sys2Proof.Machine

/-- Settles O12: the three cases of `highestPending`, each reported and acknowledged as `rdIv_of_highestPending` says. -/
theorem readIvReturnsAndAcknowledges : Obligations.ReadIvReturnsAndAcknowledges := by
  refine ⟨decode_encode (.rd .iv), fun s => ⟨fun n hn hlow => ?channel, fun hnone hflag henable => ?overflow,
    fun hnone hovf => ?nothing⟩⟩
  case channel =>
    rw [exec_rdIv, rdIv_of_highestPending (highestPending_channel s n hn hlow)]; rfl
  case overflow =>
    have hsrc := highestPending_none s hnone
    rw [if_pos ((overflowPending_iff _).2 ⟨hflag, henable⟩)] at hsrc
    rw [exec_rdIv, rdIv_of_highestPending hsrc]; rfl
  case nothing =>
    have hsrc := highestPending_none s hnone
    rw [if_neg (mt (overflowPending_iff _).1 hovf)] at hsrc
    rw [exec_rdIv, rdIv_of_highestPending hsrc]; rfl

/-- Settles O13: a store (`storeCtl_fields`), then the clear pulse of bit 2 (`writeCtl_eq`). -/
theorem writeCtlStoresFields : Obligations.WriteCtlStoresFields := by
  intro s d hd
  obtain ⟨mc, hmc, hcode⟩ := modeField_ne_three hd
  obtain ⟨htassel, hid, htaie, htaifg⟩ := storeCtl_fields d mc s.timer
  have hpulse : d.getLsbD 2 = decide (d.toNat / 4 % 2 = 1) := bit_eq_decide d 2
  refine ⟨writeCtl d mc s.timer, by rw [exec_wrCtl, wrCtl_of_mode hmc]; rfl, ?_⟩
  rw [writeCtl_eq]
  refine ⟨htassel, hid, hcode, htaie, htaifg, fun hclear => ?clear, fun hkeep => ?keep, rfl, rfl⟩
  case clear =>
    have hreload := prescReload_add_one (storeCtl d mc s.timer)
    rw [hid] at hreload
    rw [hpulse, decide_eq_true hclear]
    exact ⟨rfl, hreload⟩
  case keep =>
    rw [hpulse, decide_eq_false (by omega)]
    exact ⟨rfl, rfl⟩

/-- Settles O15: the stored channel is `followOut (storeCctl d c)`, and a level change on it is judged by
`writeCctl_outcome`. -/
theorem writeCctlStoresFieldsAndDetectsEdge : Obligations.WriteCctlStoresFieldsAndDetectsEdge := by
  intro s d p hp
  rw [exec_cctlWrites hp]
  refine ⟨fun h => ?wired, fun h => by rw [wrCctl_unwired d h]; rfl⟩
  obtain ⟨hcm, hccis, hscs, hcap, houtmod, hccie, hout, hcov, hccifg⟩ := storeCctl_fields d (s.timer.chan p.1)
  have houtSig := followOut_storeCctl_outSig d (s.timer.chan p.1)
  have hedge := writeCctl_outcome (Config.draw s.draws) d (s.timer.chan p.1)
  refine ⟨followOut (storeCctl d (s.timer.chan p.1)), writeCctl (Config.draw s.draws) d (s.timer.chan p.1),
    by rw [wrCctl_wired d h]; rfl, ?_⟩
  rw [followOut_eq] at houtSig hedge ⊢
  exact ⟨hcm, hccis, hscs, rfl, hcap, houtmod, hccie, hout, hcov, hccifg, rfl, houtSig, rfl, rfl, rfl, rfl, hedge⟩

/-- Settles O17: one field of one channel is stored; the next tick's comparison is `compareChannel_ccifg`. -/
theorem writeCcrStoresValue : Obligations.WriteCcrStoresValue := by
  intro s d p hp
  refine ⟨?word, fun h => ⟨s.timer.setChan p.1 { s.timer.chan p.1 with ccr := d }, ?wired,
    Timer.setChan_chan_same _ _ _, fun m hm => Timer.setChan_chan_ne _ _ _ _ hm, rfl, fun new => ?tick⟩,
    fun h => ?unwired⟩
  case word =>
    rw [← encode_rd_ccr_offset, ← encode_wr, toInstr_of_mem_ccrWrites hp]
    exact decode_encode _
  case wired => rw [exec_ccrWrites hp, wrCcr_wired d h]; rfl
  case unwired => rw [exec_ccrWrites hp, wrCcr_unwired d h]; rfl
  case tick =>
    rw [compareStep, Timer.mapWired_chan, if_pos h, compareChannel_ccifg, Timer.setChan_chan_same]

/-- Settles O8: the value returned is `ctlWord`, a number by `ctlWord_toNat`. -/
theorem readCtlReturnsRegister : Obligations.ReadCtlReturnsRegister :=
  ⟨decode_encode (.rd .ctl), fun s => ⟨ctlWord s.timer, exec_rdCtl s, ctlWord_toNat s.timer⟩⟩

/-- Settles O9: the value returned is `cctlWord`, a number by `cctlWord_toNat`. -/
theorem readCctlReturnsRegister : Obligations.ReadCctlReturnsRegister := by
  intro p hp
  refine ⟨?word, fun s => ⟨fun h => ⟨cctlWord (s.timer.chan p.1), ?wired, cctlWord_toNat _⟩,
    fun h => ?unwired⟩⟩
  case word =>
    rw [← encode_rd_cctl_offset, toInstr_of_mem_cctlReads hp]
    exact decode_encode _
  case wired => rw [exec_cctlReads hp, rdCctl_wired h]; rfl
  case unwired => rw [exec_cctlReads hp, rdCctl_unwired h]; rfl

/-- Settles O10: only `unread[n]` is written, and a capture after it finds nothing unread (`capture_cov_of_read`). -/
theorem readCcrReturnsAndMarksRead : Obligations.ReadCcrReturnsAndMarksRead := by
  intro p hp
  refine ⟨?word, fun s => ⟨fun h => ⟨_, ?wired, rfl, fun m hm => Timer.setChan_chan_ne _ _ _ _ hm,
    fun v => ?capture⟩, fun h => ?unwired⟩⟩
  case word =>
    rw [← encode_rd_ccr_offset, toInstr_of_mem_ccrReads hp]
    exact decode_encode _
  case capture => rw [Timer.setChan_chan_same, capture_cov_of_read v rfl]
  case wired => rw [exec_ccrReads hp, rdCcr_wired h]; rfl
  case unwired => rw [exec_ccrReads hp, rdCcr_unwired h]; rfl

/-- Settles O11: `EX0` returns `TAIDEX` zero-extended (`fieldAt_zero_toNat`). -/
theorem readCounterAndExpansion : Obligations.ReadCounterAndExpansion :=
  fun s => ⟨exec_rdR s, ex0Word s.timer, exec_rdEx0 s, fieldAt_zero_toNat s.timer.taidex (by decide)⟩

/-- Settles O14: code 3 names no run mode (`modeField_eq_none_iff`). -/
theorem writeCtlModeThreeRefused : Obligations.WriteCtlModeThreeRefused := by
  intro s d hd
  rw [exec_wrCtl, wrCtl_of_no_mode ((modeField_eq_none_iff d).2 hd)]
  rfl

/-- Settles O16: the three bits stored are the next reload's divisor less 1 (`prescReload_add_one`). -/
theorem writeExpansionStoresThreeBits : Obligations.WriteExpansionStoresThreeBits := by
  intro s d
  have hword : (Stim.wr .ex0 d).encode = 0x600000#24 ||| d.setWidth 24 := encode_wr .ex0 d
  have hbits : (d.extractLsb' 0 3).toNat = d.toNat % 8 := by rw [field_toNat, pow_zero, Nat.div_one]; rfl
  refine ⟨hword ▸ decode_encode (.wr .ex0 d), d.extractLsb' 0 3, hbits, exec_wrEx0 d s, ?_⟩
  rw [prescReload_add_one, hbits]

/-- Settles O18: past the top the next Up tick is the wrap (`tick_up_of_top_le`). -/
theorem writeCounterSetsCounterOnly : Obligations.WriteCounterSetsCounterOnly := by
  intro s d
  refine ⟨exec_wrR d s, fun hmode htop hlt => ?_⟩
  have hwrap : tick s.cfg { s.timer with tar := d } = countTo s.cfg 0 true { s.timer with tar := d } :=
    tick_up_of_top_le s.cfg hmode htop (BitVec.le_of_lt hlt)
  rw [hwrap]
  exact ⟨countTo_tar _ _ _ _, (countTo_taifg _ _ _ _).trans (Bool.or_true _)⟩

/-- Settles O19: both are the acknowledge of the source the vector register names. -/
theorem writeIvAcknowledgesAsRead : Obligations.WriteIvAcknowledgesAsRead :=
  fun s d => ⟨rdIv s, exec_rdIv s, exec_wrIv d s⟩

/-- Settles O47: the channel is as little wired at the write as at the read (`driverModify_cctl_unwired`). -/
theorem channelModifyOnUnwiredChannelRefusedTwice : Obligations.ChannelModifyOnUnwiredChannelRefusedTwice := by
  intro s n h p hp
  rw [exec_cctlModifies hp, driverModify_cctl_unwired p.2 h]
  rfl

end Sys2Proof.Machine
end

section
/-! SUPPORT. The divider chain and the tick, one lemma per branch, what a tick keeps, and runs of edges as iterates
(R110 to R113, R126 to R131). -/

namespace Sys2Proof.Machine

/-! ## One edge of the divider chain -/

/-- The timer with the divider chain reloaded from the divisors as they are now (R112). -/
def reloaded (t : Timer) : Timer := { t with presc := prescReload t }

section
variable {cfg : Cfg} {source : ClockSource} {t : Timer}

/-- A stopped timer and an unselected source: the edge is ignored (R111, R113). -/
theorem sourceEdge_of_ignored (h : t.mc = .stopped ∨ source ≠ t.tassel) : sourceEdge cfg source t = t := by
  unfold sourceEdge
  split
  · rfl
  next hrun => exact if_pos (h.resolve_left hrun)

/-- Between tick boundaries an edge counts the chain down by 1 (R111). -/
theorem sourceEdge_of_presc_succ {p : BitVec 6} (hrun : t.mc ≠ .stopped) (hp : t.presc.toNat = p.toNat + 1) :
    sourceEdge cfg t.tassel t = { t with presc := p } := by
  have hne : t.presc ≠ 0 := by bv_omega
  have hpred : t.presc - 1 = p := by bv_omega
  rw [sourceEdge, if_neg hrun, if_neg (not_not.2 rfl), if_pos hne, hpred]

/-- A tick boundary: the chain is reloaded with the divisors as they are now, and the timer ticks (R111, R112). -/
theorem sourceEdge_of_presc_zero (hrun : t.mc ≠ .stopped) (hp : t.presc = 0) :
    sourceEdge cfg t.tassel t = tick cfg (reloaded t) := by
  rw [sourceEdge, if_neg hrun, if_neg (not_not.2 rfl), if_neg (not_not.2 hp), reloaded]

end

/-! ## The branches of a tick -/

section
variable (cfg : Cfg) {t : Timer}

/-- In Up mode with a top of 0 the counter stands still (R130). -/
theorem tick_up_of_top_zero (hmode : t.mc = .up) (htop : (t.chan 0).ccr = 0) : tick cfg t = t := by
  simp only [tick, hmode, htop, if_true]

/-- In Up mode a counter below the top goes up by 1 (R127). -/
theorem tick_up_of_lt_top (hmode : t.mc = .up) (hlt : t.tar < (t.chan 0).ccr) :
    tick cfg t = countTo cfg (t.tar + 1) false t := by
  have htop : (t.chan 0).ccr ≠ 0 := by bv_omega
  have hle : ¬ (t.chan 0).ccr ≤ t.tar := by bv_omega
  simp only [tick, hmode, htop, hle, if_false]

/-- In Continuous mode the counter goes up by 1, and from its largest value wraps (R129). -/
theorem tick_continuous (hmode : t.mc = .continuous) :
    tick cfg t = countTo cfg (t.tar + 1) (decide (t.tar = 0xFFFF)) t := by
  simp only [tick, hmode]

end

/-- The channels after counting, by the terms of `channelAfterTick`. -/
theorem countTo_chan_eq_channelAfterTick {s : State} {t : Timer} (h : t.chans = s.timer.chans) (new : Word) (ovf : Bool)
    (n : Chan) : (countTo s.cfg new ovf t).chan n = channelAfterTick s new n :=
  compareStep_chan s new { t with tar := new, taifg := t.taifg || ovf } h n

/-! ## What a tick keeps -/

/-- `u` is `t` but for the counter, the overflow flag and the channels, and no channel's `CCR` has changed: what ticks
keep (R126, R150). -/
structure Timer.KeptByTicks (t u : Timer) : Prop where
  frame : u = { t with tar := u.tar, taifg := u.taifg, chans := u.chans }
  ccr : ∀ n, (u.chan n).ccr = (t.chan n).ccr

namespace Timer.KeptByTicks
variable {t u v : Timer}

theorem rfl : t.KeptByTicks t := ⟨Eq.refl _, fun _ => Eq.refl _⟩

theorem trans (h : t.KeptByTicks u) (g : u.KeptByTicks v) : t.KeptByTicks v where
  frame := g.frame.trans (by rw [h.frame])
  ccr n := (g.ccr n).trans (h.ccr n)

theorem mc (h : t.KeptByTicks u) : u.mc = t.mc := by rw [h.frame]

theorem presc (h : t.KeptByTicks u) : u.presc = t.presc := by rw [h.frame]

theorem edgesPerTick (h : t.KeptByTicks u) : edgesPerTick u = edgesPerTick t := by
  rw [h.frame]; rfl

theorem prescReload (h : t.KeptByTicks u) : prescReload u = prescReload t := by
  rw [h.frame]; rfl

end Timer.KeptByTicks

theorem compareChannel_ccr (new : Word) (equ0 : Bool) (c : Channel) : (compareChannel new equ0 c).ccr = c.ccr := by
  rw [compareChannel_eq]
  split <;> rfl

theorem countTo_kept (cfg : Cfg) (new : Word) (ovf : Bool) (t : Timer) : t.KeptByTicks (countTo cfg new ovf t) where
  frame := rfl
  ccr n := by
    rw [countTo_chan]
    split
    · exact compareChannel_ccr _ _ _
    · rfl

theorem tick_kept (cfg : Cfg) (t : Timer) : t.KeptByTicks (tick cfg t) := by
  obtain hk | ⟨new, ovf, hc, -⟩ := tick_cases cfg t
  · rw [hk]; exact .rfl
  · rw [hc]; exact countTo_kept cfg new ovf t

theorem tick_iterate_kept (cfg : Cfg) (t : Timer) (k : Nat) : t.KeptByTicks ((tick cfg)^[k] t) := by
  induction k with
  | zero => exact .rfl
  | succ k ih =>
    rw [Function.iterate_succ_apply']
    exact ih.trans (tick_kept cfg _)

/-! ## The tick boundary -/

/-- A tick boundary carried out: the timer is what the reload and the tick leave (R111). -/
theorem exec_src_boundary {s : State} (hrun : s.timer.mc ≠ .stopped) (hp : s.timer.presc = 0) :
    exec (.src s.timer.tassel) s =
      .next { s with timer := tick s.cfg (reloaded s.timer), pc := s.pc + 1, rdata := none } := by
  rw [exec_src, evSrc, sourceEdge_of_presc_zero hrun hp]; rfl

/-- After a tick boundary the chain holds `N() - 1`, and beside it only what a tick may change has changed (R111, R126). -/
theorem tick_reloaded_frame (cfg : Cfg) (t : Timer) :
    (tick cfg (reloaded t)).presc.toNat + 1 = 2 ^ t.id.code.toNat * (t.taidex.toNat + 1) ∧
    tick cfg (reloaded t) =
      { t with presc := (tick cfg (reloaded t)).presc, tar := (tick cfg (reloaded t)).tar,
               taifg := (tick cfg (reloaded t)).taifg, chans := (tick cfg (reloaded t)).chans } := by
  have hkept := tick_kept cfg (reloaded t)
  rw [hkept.presc]
  exact ⟨prescReload_add_one t, hkept.frame⟩

/-! ## Runs of ticks in Up mode -/

/-- In Up mode ticks count up one by one as long as the top is not passed (R127). -/
theorem tick_iterate_up_tar (cfg : Cfg) {t : Timer} (hmode : t.mc = .up) (k : Nat)
    (hk : t.tar.toNat + k ≤ (t.chan 0).ccr.toNat) : ((tick cfg)^[k] t).tar.toNat = t.tar.toNat + k := by
  induction k with
  | zero => rfl
  | succ k ih =>
    have htar := ih (by omega)
    have hkept := tick_iterate_kept cfg t k
    have hlt : ((tick cfg)^[k] t).tar < (((tick cfg)^[k] t).chan 0).ccr := by
      rw [BitVec.lt_def, hkept.ccr, htar]; omega
    rw [Function.iterate_succ_apply', tick_up_of_lt_top cfg (hkept.mc.trans hmode) hlt, countTo_tar]
    bv_omega

/-- In Up mode with a top that is not 0, the tick after the one that reaches the top wraps (R128). -/
theorem tick_iterate_up_wrap (cfg : Cfg) {t : Timer} (hmode : t.mc = .up) (htop : (t.chan 0).ccr ≠ 0) (htar : t.tar = 0) :
    ((tick cfg)^[(t.chan 0).ccr.toNat + 1] t).tar = 0 ∧ ((tick cfg)^[(t.chan 0).ccr.toNat + 1] t).taifg = true := by
  have hreach := tick_iterate_up_tar cfg hmode (t.chan 0).ccr.toNat (by simp [htar])
  have hkept := tick_iterate_kept cfg t (t.chan 0).ccr.toNat
  rw [Function.iterate_succ_apply', tick_up_of_top_le cfg (hkept.mc.trans hmode) (by rwa [hkept.ccr])
    (by rw [BitVec.le_def, hkept.ccr, hreach]; omega)]
  exact ⟨countTo_tar _ _ _ _, (countTo_taifg _ _ _ _).trans (Bool.or_true _)⟩

/-! ## Runs of source edges -/

/-- What an edge of the clock input the timer selects does to the timer. -/
def selectedEdge (cfg : Cfg) (t : Timer) : Timer := sourceEdge cfg t.tassel t

theorem sourceEdges_timer (k : Nat) (s : State) : (sourceEdges k s).timer = (selectedEdge s.cfg)^[k] s.timer := by
  induction k generalizing s with
  | zero => rfl
  | succ k ih => exact ih (applyStim (.src s.timer.tassel) s)

theorem sourceEdges_pc (k : Nat) (s : State) : (sourceEdges k s).pc = s.pc + k := by
  induction k generalizing s with
  | zero => rfl
  | succ k ih =>
    have hstep : (applyStim (.src s.timer.tassel) s).pc = s.pc + 1 := rfl
    rw [sourceEdges, ih, hstep]; omega

section
variable (cfg : Cfg) {t : Timer}

/-- As many edges as the chain holds run it down to 0 and do nothing else (R111). -/
theorem selectedEdge_iterate_presc (hrun : t.mc ≠ .stopped) :
    (selectedEdge cfg)^[t.presc.toNat] t = { t with presc := 0 } := by
  generalize hk : t.presc.toNat = k
  induction k generalizing t with
  | zero => rw [← BitVec.eq_of_toNat_eq (y := 0) hk]; rfl
  | succ k ih =>
    have hpred : (t.presc - 1).toNat = k := by bv_omega
    have hedge : selectedEdge cfg t = { t with presc := t.presc - 1 } :=
      sourceEdge_of_presc_succ hrun (by rw [hk, hpred])
    rw [Function.iterate_succ_apply, hedge]
    exact ih hrun hpred

/-- From a freshly reloaded chain, `N()` edges are one tick and leave the chain freshly reloaded (R110, R111). -/
theorem selectedEdge_iterate_edgesPerTick (hrun : t.mc ≠ .stopped) (hfresh : t.presc = prescReload t) :
    (selectedEdge cfg)^[edgesPerTick t] t = tick cfg t := by
  have hedges : edgesPerTick t = t.presc.toNat + 1 := by
    rw [hfresh, prescReload_toNat, Nat.sub_add_cancel (edgesPerTick_pos t)]
  have hreload : reloaded t = t := by rw [reloaded, ← hfresh]
  calc (selectedEdge cfg)^[edgesPerTick t] t
      = selectedEdge cfg { t with presc := 0 } := by
        rw [hedges, Function.iterate_succ_apply', selectedEdge_iterate_presc cfg hrun]
    _ = tick cfg (reloaded t) := sourceEdge_of_presc_zero hrun rfl
    _ = tick cfg t := by rw [hreload]

/-- From a freshly reloaded chain, `k * N()` edges are `k` ticks (R110). -/
theorem selectedEdge_iterate_ticks (hrun : t.mc ≠ .stopped) (hfresh : t.presc = prescReload t) (k : Nat) :
    (selectedEdge cfg)^[k * edgesPerTick t] t = (tick cfg)^[k] t := by
  induction k with
  | zero => rw [Nat.zero_mul]; rfl
  | succ k ih =>
    have hkept := tick_iterate_kept cfg t k
    rw [Nat.succ_mul, Nat.add_comm, Function.iterate_add_apply, ih, ← hkept.edgesPerTick,
      selectedEdge_iterate_edgesPerTick cfg (by rwa [hkept.mc]) (by rw [hkept.presc, hkept.prescReload, hfresh]),
      ← Function.iterate_succ_apply' (tick cfg)]

end

/-! ## The data of the clock operations -/

/-- What `config_clock` writes names the mode Stopped (R114). -/
theorem configClockData_mode (source : ClockSource) (divider : PrimaryDivider) :
    RunMode.ofCode ((configClockData source divider).extractLsb' 4 2) = some .stopped := by
  cases source <;> cases divider <;> rfl

/-- What `config_clock` writes carries no clear pulse, so the counter and the divider count are kept (R114). -/
theorem writeCtl_configClockData (source : ClockSource) (divider : PrimaryDivider) (t : Timer) :
    writeCtl (configClockData source divider) .stopped t =
      { t with tassel := source, id := divider, mc := .stopped, taie := false, taifg := false } := by
  cases source <;> cases divider <;> rfl

/-- The three bits stored of a divisor 1 to 8 are the divisor less 1 (R115). -/
theorem expansionDividerData_field {e : Nat} (hlo : 1 ≤ e) (hhi : e ≤ 8) :
    ((expansionDividerData e).extractLsb' 0 3).toNat + 1 = e := by
  rw [field_toNat, expansionDividerData, BitVec.toNat_ofNat]
  omega

end Sys2Proof.Machine
end

section
/-! The statements on the clock: source edges, tick boundaries, the period, and the two clock operations. -/

namespace Sys2Proof.Machine

/-- Settles O26: `k * N()` edges are `k` ticks (`selectedEdge_iterate_ticks`), which count to the top and then wrap. -/
theorem upModePeriodInSourceEdges : Obligations.UpModePeriodInSourceEdges := by
  intro s hmode htop htar hpresc edges top
  have hfresh : s.timer.presc = prescReload s.timer :=
    BitVec.eq_of_toNat_eq (Nat.succ_injective (hpresc.trans (prescReload_add_one s.timer).symm))
  have hedges : edges = edgesPerTick s.timer := by
    simp only [edges, edgesPerTick, divisor, Nat.one_shiftLeft]
  have hticks (k : Nat) : (sourceEdges (k * edges) s).timer = (tick s.cfg)^[k] s.timer := by
    rw [hedges, sourceEdges_timer, selectedEdge_iterate_ticks s.cfg (by simp [hmode]) hfresh]
  obtain ⟨hwrap, hflag⟩ := tick_iterate_up_wrap s.cfg hmode htop htar
  refine ⟨fun j hj => ?reach, ?tar, ?taifg, ?presc, sourceEdges_pc _ s⟩
  case reach =>
    have hbound : s.timer.tar.toNat + j ≤ (s.timer.chan 0).ccr.toNat := by simpa [htar] using hj
    rw [hticks, tick_iterate_up_tar s.cfg hmode j hbound, htar]
    exact Nat.zero_add j
  case tar => rw [hticks]; exact hwrap
  case taifg => rw [hticks]; exact hflag
  case presc => rw [hticks]; exact (tick_iterate_kept s.cfg s.timer (top + 1)).presc

/-- Settles O23: the boundary is a reload and a tick (`exec_src_boundary`), and the tick has one branch for each place of
the counter against the top. -/
theorem upModeTickBoundary : Obligations.UpModeTickBoundary := by
  intro s hmode hpresc
  obtain ⟨hreload, hframe⟩ := tick_reloaded_frame s.cfg s.timer
  refine ⟨tick s.cfg (reloaded s.timer), exec_src_boundary (by simp [hmode]) hpresc, hreload, hframe,
    fun htop => ?still, fun htop hle => ?wrap, fun htop hlt => ?count⟩
  case still =>
    have hzero : (s.timer.chan 0).ccr = 0 := BitVec.eq_of_toNat_eq htop
    rw [tick_up_of_top_zero (t := reloaded s.timer) s.cfg hmode hzero]
    exact ⟨rfl, rfl, rfl⟩
  case wrap =>
    have hnonzero : (s.timer.chan 0).ccr ≠ 0 := fun h => htop (congrArg BitVec.toNat h)
    rw [tick_up_of_top_le (t := reloaded s.timer) s.cfg hmode hnonzero hle]
    exact ⟨rfl, (countTo_taifg _ _ _ _).trans (Bool.or_true _), countTo_chan_eq_channelAfterTick rfl 0 true⟩
  case count =>
    have hsucc : (s.timer.tar + 1).toNat = s.timer.tar.toNat + 1 := by bv_omega
    rw [tick_up_of_lt_top (t := reloaded s.timer) s.cfg hmode hlt]
    exact ⟨hsucc, (countTo_taifg _ _ _ _).trans (Bool.or_false _), countTo_chan_eq_channelAfterTick rfl _ false⟩

/-- Settles O24: the boundary is a reload and a tick (`exec_src_boundary`), which in Continuous mode has one branch. -/
theorem continuousModeTickBoundary : Obligations.ContinuousModeTickBoundary := by
  intro s hmode hpresc
  obtain ⟨hreload, hframe⟩ := tick_reloaded_frame s.cfg s.timer
  have hlast : s.timer.tar = 0xFFFF ↔ s.timer.tar.toNat = 65535 := BitVec.toNat_inj.symm
  refine ⟨tick s.cfg (reloaded s.timer), exec_src_boundary (by simp [hmode]) hpresc, hreload, hframe, ?_⟩
  rw [tick_continuous (t := reloaded s.timer) s.cfg hmode]
  refine ⟨BitVec.toNat_add _ _, ?taifg,
    countTo_chan_eq_channelAfterTick rfl _ (decide (s.timer.tar = 0xFFFF))⟩
  case taifg => simp only [countTo_taifg, reloaded, hlast]

/-- Settles O21: the edge leaves the timer as it is (`sourceEdge_of_ignored`). -/
theorem sourceEdgeIgnoredWhenStoppedOrUnselected : Obligations.SourceEdgeIgnoredWhenStoppedOrUnselected := by
  intro s source h
  rw [exec_src, evSrc, sourceEdge_of_ignored h]
  rfl

/-- Settles O22: the edge takes the divider chain one down (`sourceEdge_of_presc_succ`). -/
theorem sourceEdgeCountsDividerDown : Obligations.SourceEdgeCountsDividerDown := by
  intro s p hrun hp
  rw [exec_src, evSrc, sourceEdge_of_presc_succ hrun hp]
  rfl

/-- Settles O34: one write of `CTL` with the mode Stopped and no clear pulse. -/
theorem configClockStopsAndSelects : Obligations.ConfigClockStopsAndSelects := by
  intro s source divider
  refine ⟨fun _ => rfl, ?_⟩
  have hwrite : busWrite .ctl (configClockData source divider) s =
      complete (writeCtl (configClockData source divider) .stopped s.timer) s :=
    wrCtl_of_mode (configClockData_mode source divider) s
  rw [exec_configClock, driverWrite, hwrite, writeCtl_configClockData]
  rfl

/-- Settles O35: the three bits stored are the divisor less 1 (`expansionDividerData_field`). -/
theorem setExpansionDividerStoresDivisor : Obligations.SetExpansionDividerStoresDivisor := by
  intro s e hlo hhi
  have hfield := expansionDividerData_field hlo hhi
  refine ⟨(expansionDividerData e).extractLsb' 0 3, hfield, fun _ => rfl, exec_setExpansionDivider e s, ?_⟩
  rw [prescReload_add_one, hfield]

end Sys2Proof.Machine
end

section
/-! SUPPORT. The driver operations on `CTL`: the data each writes as the register word of the timer it means, a read of
`CTL` and the write that follows it, the queries (R132 to R140), runs of ticks in Continuous mode (R129), and what
changes the run mode and sets the overflow flag. -/

namespace Sys2Proof.Machine

/-! ## The data of the run-mode operations, R70 -/

/-- A mask on a word acts on each field at that field's own place. -/
theorem fieldAt_and {w : Nat} (v : BitVec w) (lo : Nat) (m : Word) :
    fieldAt v lo &&& m = fieldAt (v &&& m.extractLsb' lo w) lo := by
  ext i hi
  rw [BitVec.getElem_and, fieldAt_getElem _ _ _ hi, fieldAt_getElem _ _ _ hi, BitVec.getLsbD_and,
    BitVec.getLsbD_extractLsb']
  by_cases hlo : lo ≤ i
  · by_cases hw : i - lo < w
    · simp [hlo, hw, Nat.add_sub_cancel' hlo, hi]
    · simp [BitVec.getLsbD_of_ge v (i - lo) (not_lt.1 hw)]
  · simp [hlo]

@[simp] theorem fieldAt_zero (w lo : Nat) : fieldAt 0#w lo = 0#16 := by simp [fieldAt]

@[simp] theorem field_and_three (v : BitVec 2) : v &&& 3#2 = v := BitVec.and_allOnes

@[simp] theorem bit_and_one (v : BitVec 1) : v &&& 1#1 = v := BitVec.and_allOnes

/-- `CTL` under a mask, field by field (R63). -/
theorem ctlWord_and (t : Timer) (m : Word) :
    ctlWord t &&& m =
      fieldAt (t.tassel.code &&& m.extractLsb' 8 2) 8 ||| fieldAt (t.id.code &&& m.extractLsb' 6 2) 6 |||
        fieldAt (t.mc.code &&& m.extractLsb' 4 2) 4 ||| fieldAt (BitVec.ofBool t.taie &&& m.extractLsb' 1 1) 1 |||
        fieldAt (BitVec.ofBool t.taifg &&& m.extractLsb' 0 1) 0 := by
  simp only [ctlWord, BitVec.and_or_distrib_right, fieldAt_and]

/-- The mask `0xFFCE` clears the mode and the overflow flag, and `mode` with the clear pulse comes in their place. -/
theorem modeEntryData_ctlWord (t : Timer) (mode : RunMode) :
    (ctlWord t &&& 0xFFCE) ||| (fieldAt mode.code 4 ||| 0x0004) =
      ctlWord { t with mc := mode, taifg := false } ||| 0x0004 := by
  have hclear : ctlWord t &&& 0xFFCE =
      fieldAt t.tassel.code 8 ||| fieldAt t.id.code 6 ||| fieldAt (BitVec.ofBool t.taie) 1 := by
    rw [ctlWord_and]; simp
  have hflag : fieldAt (BitVec.ofBool false) 0 = 0#16 := rfl
  rw [hclear]
  simp only [ctlWord, hflag, BitVec.or_zero]
  ac_rfl

theorem upmodeData_ctlWord (t : Timer) :
    upmodeData (ctlWord t) = ctlWord { t with mc := .up, taifg := false } ||| 0x0004 :=
  modeEntryData_ctlWord t .up

theorem continuousData_ctlWord (t : Timer) :
    continuousData (ctlWord t) = ctlWord { t with mc := .continuous, taifg := false } ||| 0x0004 :=
  modeEntryData_ctlWord t .continuous

theorem stopData_ctlWord (t : Timer) : stopData (ctlWord t) = ctlWord { t with mc := .stopped } := by
  have hmode : fieldAt RunMode.stopped.code 4 = 0 := rfl
  rw [stopData, ctlWord_and]
  simp [ctlWord, hmode]

theorem overflowFlagClearData_ctlWord (t : Timer) :
    overflowFlagClearData (ctlWord t) = ctlWord { t with taifg := false } := by
  rw [overflowFlagClearData, ctlWord_and]
  simp [ctlWord]

theorem overflowInterruptDisableData_ctlWord (t : Timer) :
    overflowInterruptDisableData (ctlWord t) = ctlWord { t with taie := false } := by
  rw [overflowInterruptDisableData, ctlWord_and]
  simp [ctlWord]

theorem overflowInterruptEnableData_ctlWord (t : Timer) :
    overflowInterruptEnableData (ctlWord t) = ctlWord { t with taie := true } := by
  have hset : fieldAt (BitVec.ofBool true) 1 = fieldAt (BitVec.ofBool t.taie) 1 ||| 0x0002 := by cases t.taie <;> rfl
  simp only [overflowInterruptEnableData, ctlWord, hset]
  ac_rfl

/-! ## Writing a register word back to `CTL` -/

/-- `u` with the stored fields of `CTL` as in `t` (R63). -/
def Timer.withCtlOf (u t : Timer) : Timer :=
  { u with tassel := t.tassel, id := t.id, mc := t.mc, taie := t.taie, taifg := t.taifg }

/-- The clear pulse: counter and divider chain start over with the divisors as they are (R82). -/
def Timer.cleared (t : Timer) : Timer := { reloaded t with tar := 0 }

/-- Bit 2 of the data is not among the fields a `CTL` write stores (R63). -/
theorem storeCtl_or_taclr (d : Word) (mc : RunMode) (t : Timer) : storeCtl (d ||| 0x0004) mc t = storeCtl d mc t := by
  simp [storeCtl, BitVec.extractLsb'_or]

/-- The mode field of a register word, with or without the clear pulse, names a mode with a meaning (R28, R83). -/
theorem ctlWord_mode (t : Timer) : RunMode.ofCode ((ctlWord t).extractLsb' 4 2) = some t.mc := by
  rw [ctlWord_mc, RunMode.ofCode_code]

theorem ctlWord_or_taclr_mode (t : Timer) :
    RunMode.ofCode ((ctlWord t ||| 0x0004).extractLsb' 4 2) = some t.mc := by
  have hbit : (0x0004 : Word).extractLsb' 4 2 = 0#2 := rfl
  rw [BitVec.extractLsb'_or, hbit, BitVec.or_zero, ctlWord_mode]

theorem writeCtl_ctlWord (t u : Timer) : writeCtl (ctlWord t) t.mc u = u.withCtlOf t := by
  rw [writeCtl_eq, ctlWord_taclr, storeCtl_ctlWord]; rfl

theorem writeCtl_ctlWord_or_taclr (t u : Timer) :
    writeCtl (ctlWord t ||| 0x0004) t.mc u = (u.withCtlOf t).cleared := by
  have hbit : (ctlWord t ||| 0x0004).getLsbD 2 = true := by simp
  rw [writeCtl_eq, hbit, storeCtl_or_taclr, storeCtl_ctlWord]; rfl

/-! ## Read, gap, write -/

/-- The state the write of a read-modify-write of `CTL` meets: `CTL` read, then whatever falls between (R46). -/
def afterCtlRead (s : State) : State := fillGap { s with pc := s.pc + 1, rdata := some (ctlWord s.timer) }

section
variable {f : Word → Word} {s : State} {t : Timer}

/-- An operation whose data is the register word of `t` leaves the stored fields of `CTL` as in `t`, and all else as the
gap left it. -/
theorem driverModify_ctl_of_ctlWord (hdata : f (ctlWord s.timer) = ctlWord t) :
    driverModify .ctl f s =
      { afterCtlRead s with
        timer := (afterCtlRead s).timer.withCtlOf t, pc := (afterCtlRead s).pc + 1, rdata := none, result := none } := by
  rw [driverModify_ctl, hdata, wrCtl_of_mode (ctlWord_mode t), writeCtl_ctlWord]; rfl

/-- With the clear pulse in the data, the counter and the divider chain start over as well. -/
theorem driverModify_ctl_of_ctlWord_or_taclr (hdata : f (ctlWord s.timer) = ctlWord t ||| 0x0004) :
    driverModify .ctl f s =
      { afterCtlRead s with
        timer := ((afterCtlRead s).timer.withCtlOf t).cleared, pc := (afterCtlRead s).pc + 1, rdata := none,
        result := none } := by
  rw [driverModify_ctl, hdata, wrCtl_of_mode (ctlWord_or_taclr_mode t), writeCtl_ctlWord_or_taclr]; rfl

end

/-! ## The queries -/

/-- The mode field of a register word is 0 in Stopped mode only (R66). -/
theorem ctlWord_and_mode_eq_zero (t : Timer) : (ctlWord t &&& 0x0030 == 0) = decide (t.mc = .stopped) := by
  have hfield : ctlWord t &&& 0x0030 = fieldAt t.mc.code 4 := by rw [ctlWord_and]; simp
  rw [hfield]
  cases t.mc <;> rfl

/-- `is_stopped()` reads the mode field and nothing else happens (R136). -/
theorem exec_isStopped_eq (s : State) :
    exec .isStopped s =
      .next { s with pc := s.pc + 1, rdata := some (ctlWord s.timer),
                     result := some (.truth (decide (s.timer.mc = .stopped))) } := by
  rw [exec_isStopped, ← ctlWord_and_mode_eq_zero]; rfl

/-- `overflow_flag_read()` reads the flag and nothing else happens (R137). -/
theorem exec_overflowFlagRead_eq (s : State) :
    exec .overflowFlagRead s =
      .next { s with pc := s.pc + 1, rdata := some (ctlWord s.timer), result := some (.truth s.timer.taifg) } := by
  rw [exec_overflowFlagRead, ← ctlWord_taifg]; rfl

/-! ## Runs of ticks in Continuous mode -/

section
variable (cfg : Cfg) {t : Timer} (hmode : t.mc = .continuous)
include hmode

/-- In Continuous mode ticks count modulo 65536 (R129). -/
theorem tick_iterate_continuous_tar (k : Nat) : ((tick cfg)^[k] t).tar.toNat = (t.tar.toNat + k) % 65536 := by
  induction k with
  | zero => exact (Nat.mod_eq_of_lt t.tar.isLt).symm
  | succ k ih =>
    have hkept := tick_iterate_kept cfg t k
    rw [Function.iterate_succ_apply', tick_continuous cfg (hkept.mc.trans hmode), countTo_tar, BitVec.toNat_add, ih]
    exact Nat.mod_add_mod _ _ _

/-- In Continuous mode the flag is set from the tick on that passes `0xFFFF` (R129). -/
theorem tick_iterate_continuous_taifg (k : Nat) :
    ((tick cfg)^[k] t).taifg = (t.taifg || decide (65536 ≤ t.tar.toNat + k)) := by
  have htar := t.tar.isLt
  induction k with
  | zero => rw [decide_eq_false (by omega), Bool.or_false]; rfl
  | succ k ih =>
    have hkept := tick_iterate_kept cfg t k
    have hlast : ((tick cfg)^[k] t).tar = 0xFFFF ↔ (t.tar.toNat + k) % 65536 = 65535 := by
      rw [← tick_iterate_continuous_tar cfg hmode k]; exact BitVec.toNat_inj.symm
    have hpass : 65536 ≤ t.tar.toNat + (k + 1) ↔
        65536 ≤ t.tar.toNat + k ∨ (t.tar.toNat + k) % 65536 = 65535 := by omega
    rw [Function.iterate_succ_apply', tick_continuous cfg (hkept.mc.trans hmode), countTo_taifg, ih]
    simp only [hlast, hpass, Bool.decide_or, Bool.or_assoc]

end

/-! ## What changes the run mode, and what sets the overflow flag, as stimuli -/

/-- No source edge changes the run mode (R111, R126). -/
theorem sourceEdge_mc (cfg : Cfg) (source : ClockSource) (t : Timer) : (sourceEdge cfg source t).mc = t.mc := by
  obtain ⟨presc, he⟩ | ⟨-, -, -, he⟩ := sourceEdge_cases cfg source t
  · rw [he]
  · rw [he, (tick_kept cfg _).mc]

theorem acknowledge_mc (src : Option VecSource) (t : Timer) : (acknowledge src t).mc = t.mc := by
  match src with
  | none | some (.channel _) | some .overflow => rfl

/-- The two writers of the run mode (R125), as stimuli. -/
theorem TimerEffect.mc_changed {s : State} {st : Stim} {t : Timer} (h : TimerEffect s st t) (ht : t.mc ≠ s.timer.mc) :
    (∃ d, st = .wr .ctl d ∧ RunMode.ofCode (d.extractLsb' 4 2) = some t.mc) ∨ (st = .reset ∧ t.mc = .stopped) := by
  cases h with
  | keep | rdCcr | wrCctl | wrR | wrCcr | wrEx0 | pin | sync | ack0 => exact absurd rfl ht
  | rdIv | wrIv => exact absurd (acknowledge_mc _ _) ht
  | wrCtl d mc hm =>
    obtain ⟨-, -, hmc, -⟩ := writeCtl_frame d mc s.timer
    exact .inl ⟨d, rfl, by rw [hm, hmc]⟩
  | reset => exact .inr ⟨rfl, rfl⟩
  | src source => exact absurd (sourceEdge_mc _ _ _) ht

/-- The counter stands where the next tick wraps it to 0: at or above a top that is not 0 in Up mode, at `0xFFFF` in
Continuous mode (R128, R129, R131). -/
def Timer.AtWrap (t : Timer) : Prop :=
  (t.mc = .up ∧ (t.chan 0).ccr ≤ t.tar ∧ (t.chan 0).ccr ≠ 0) ∨ (t.mc = .continuous ∧ t.tar = 0xFFFF)

/-- A tick sets the overflow flag only by wrapping the counter to 0 (R128, R129). -/
theorem tick_taifg_set {cfg : Cfg} {t : Timer} (hb : t.taifg = false) (ha : (tick cfg t).taifg = true) :
    (tick cfg t).tar = 0 ∧ t.AtWrap := by
  have hsame {u : Timer} (hu : tick cfg t = u) (hflag : u.taifg = t.taifg) : False := by
    simp [hu, hflag, hb] at ha
  match hmode : t.mc with
  | .stopped => exact (hsame (by rw [tick, hmode]) rfl).elim
  | .up =>
    by_cases htop : (t.chan 0).ccr = 0
    · exact (hsame (tick_up_of_top_zero cfg hmode htop) rfl).elim
    by_cases hle : (t.chan 0).ccr ≤ t.tar
    · exact ⟨by rw [tick_up_of_top_le cfg hmode htop hle, countTo_tar], .inl ⟨hmode, hle, htop⟩⟩
    · exact (hsame (tick_up_of_lt_top cfg hmode (BitVec.not_le.1 hle)) (Bool.or_false _)).elim
  | .continuous =>
    have htick := tick_continuous cfg hmode
    have hlast : t.tar = 0xFFFF := by simpa [htick, hb] using ha
    exact ⟨by rw [htick, countTo_tar, hlast]; rfl, .inr ⟨hmode, hlast⟩⟩

/-- A source edge that sets the overflow flag is a tick boundary of the running timer's own source that wraps. -/
theorem sourceEdge_taifg_set {cfg : Cfg} {source : ClockSource} {t : Timer} (hb : t.taifg = false)
    (ha : (sourceEdge cfg source t).taifg = true) :
    source = t.tassel ∧ t.presc = 0 ∧ (sourceEdge cfg source t).tar = 0 ∧ t.AtWrap := by
  obtain ⟨presc, he⟩ | ⟨-, hsource, hpresc, he⟩ := sourceEdge_cases cfg source t
  · simp [he, hb] at ha
  · rw [he] at ha ⊢
    exact ⟨hsource, hpresc, tick_taifg_set (t := reloaded t) hb ha⟩

theorem acknowledge_taifg_of_clear (src : Option VecSource) {t : Timer} (hb : t.taifg = false) :
    (acknowledge src t).taifg = false := by
  match src with
  | none | some (.channel _) => exact hb
  | some .overflow => rfl

/-- The two ways the overflow flag comes to be set (D16, D21), as stimuli. -/
theorem TimerEffect.taifg_set {s : State} {st : Stim} {t : Timer} (h : TimerEffect s st t) (hb : s.timer.taifg = false)
    (ha : t.taifg = true) :
    (st = .src s.timer.tassel ∧ s.timer.presc = 0 ∧ t.tar = 0 ∧ s.timer.AtWrap) ∨
    (∃ d, st = .wr .ctl d ∧ d.getLsbD 0 = true) := by
  cases h with
  | keep | rdCcr | wrCctl | wrR | wrCcr | wrEx0 | pin | sync | ack0 => exact flag_not_cleared id ha hb
  | rdIv | wrIv => exact flag_not_cleared id ha (acknowledge_taifg_of_clear _ hb)
  | wrCtl d mc hm =>
    obtain ⟨-, -, -, hflag⟩ := writeCtl_frame d mc s.timer
    exact .inr ⟨d, rfl, hflag.symm.trans ha⟩
  | reset => exact flag_not_cleared id ha rfl
  | src source =>
    obtain ⟨rfl, hwrap⟩ := sourceEdge_taifg_set hb ha
    exact .inl ⟨rfl, hwrap⟩

end Sys2Proof.Machine
end

section
/-! The statements on the run mode: counting in Continuous mode, the operations that enter and leave a mode, the overflow
flag, and what alone changes the mode and sets the flag. -/

namespace Sys2Proof.Machine

/-- Settles O25, by induction on the ticks (`tick_iterate_continuous_tar`, `tick_iterate_continuous_taifg`). -/
theorem continuousCountsModulo65536 : Obligations.ContinuousCountsModulo65536 := by
  intro cfg t k hmode
  refine ⟨(tick_iterate_kept cfg t k).mc.trans hmode, tick_iterate_continuous_tar cfg hmode k,
    tick_iterate_continuous_taifg cfg hmode k, BitVec.eq_of_toNat_eq ?period⟩
  case period =>
    rw [tick_iterate_continuous_tar cfg hmode, Nat.add_mod_right, Nat.mod_eq_of_lt t.tar.isLt]

/-- Both mode entries write the register word of the timer with the new mode and the flag clear, and the clear pulse. -/
theorem modeEntry_data {s : State} {p : Instr × RunMode}
    (hp : p ∈ [(Instr.upmode, RunMode.up), (.continuous, .continuous)]) :
    p.2 ≠ .stopped ∧ ∃ f, exec p.1 s = .next (driverModify .ctl f s) ∧
      f (ctlWord s.timer) = ctlWord { s.timer with mc := p.2, taifg := false } ||| 0x0004 := by
  simp only [List.mem_cons, List.not_mem_nil, or_false] at hp
  obtain rfl | rfl := hp
  · exact ⟨by decide, _, exec_upmode s, upmodeData_ctlWord s.timer⟩
  · exact ⟨by decide, _, exec_continuous s, continuousData_ctlWord s.timer⟩

/-- Settles O38: one write of the register word with the new mode, the flag clear and the clear pulse. -/
theorem modeEntryClearsAndStarts : Obligations.ModeEntryClearsAndStarts := by
  refine ⟨fun _ => rfl, fun _ => rfl, fun s p hp => ?_⟩
  obtain ⟨hrun, f, hexec, hdata⟩ := modeEntry_data (s := s) hp
  have hreload := prescReload_add_one ((afterCtlRead s).timer.withCtlOf s.timer)
  rw [driverModify_ctl_of_ctlWord_or_taclr hdata] at hexec
  refine ⟨ctlWord s.timer, _, _, ctlWord_toNat s.timer, hreload, hexec, rfl, ⟨_, exec_overflowFlagRead_eq _, rfl⟩,
    ⟨_, exec_isStopped_eq _, ?stopped⟩⟩
  case stopped => exact congrArg (fun b => some (OpResult.truth b)) (decide_eq_false hrun)

/-- Settles O39: `reset()` writes back the word read with the clear pulse, `stop()` that word with the mode Stopped. -/
theorem driverResetAndStop : Obligations.DriverResetAndStop := by
  refine ⟨fun _ => rfl, fun _ => rfl, fun s => ⟨ctlWord s.timer, ctlWord_toNat s.timer, ?reset, ?stop⟩⟩
  case reset =>
    have hdata : driverResetData (ctlWord s.timer) = ctlWord s.timer ||| 0x0004 := rfl
    have hreload := prescReload_add_one ((afterCtlRead s).timer.withCtlOf s.timer)
    refine ⟨_, hreload, ?_⟩
    rw [exec_driverReset, driverModify_ctl_of_ctlWord_or_taclr hdata]
    rfl
  case stop =>
    have hexec := exec_stop s
    rw [driverModify_ctl_of_ctlWord (stopData_ctlWord s.timer)] at hexec
    exact ⟨_, hexec, rfl, _, exec_isStopped_eq _, rfl⟩

/-- The three operations on the overflow write the register word with one bit of it changed. -/
theorem overflowOperation_data {s : State} {p : Instr × Bool × Bool}
    (hp : p ∈ [(Instr.overflowFlagClear, s.timer.taie, false), (.overflowInterruptEnable, true, s.timer.taifg),
      (.overflowInterruptDisable, false, s.timer.taifg)]) :
    ∃ f, exec p.1 s = .next (driverModify .ctl f s) ∧
      f (ctlWord s.timer) = ctlWord { s.timer with taie := p.2.1, taifg := p.2.2 } := by
  simp only [List.mem_cons, List.not_mem_nil, or_false] at hp
  obtain rfl | rfl | rfl := hp
  · exact ⟨_, exec_overflowFlagClear s, overflowFlagClearData_ctlWord s.timer⟩
  · exact ⟨_, exec_overflowInterruptEnable s, overflowInterruptEnableData_ctlWord s.timer⟩
  · exact ⟨_, exec_overflowInterruptDisable s, overflowInterruptDisableData_ctlWord s.timer⟩

/-- Settles O40: one write of the register word with flag and enable as the operation sets them, no clear pulse. -/
theorem overflowFlagOperations : Obligations.OverflowFlagOperations := by
  refine ⟨fun _ => rfl, fun _ => rfl, fun _ => rfl, fun cfg new t => ⟨?flag, rfl⟩, fun s p hp => ?_⟩
  case flag => rw [countTo_taifg, Bool.or_true]
  obtain ⟨f, hexec, hdata⟩ := overflowOperation_data hp
  rw [driverModify_ctl_of_ctlWord hdata] at hexec
  exact ⟨ctlWord s.timer, _, ctlWord_toNat s.timer, hexec, rfl, Bool.and_comm _ _, _,
    exec_overflowFlagRead_eq _, rfl⟩

/-- Settles O52: the two writers as stimuli (`TimerEffect.mc_changed`), each put as its word. -/
theorem onlyCtlWriteOrResetChangesMode : Obligations.OnlyCtlWriteOrResetChangesMode := by
  intro s t h hne
  obtain hk | ⟨st, hf, he⟩ := step_effect h
  · exact absurd (congrArg Timer.mc hk) hne
  obtain ⟨d, rfl, hmode⟩ | ⟨rfl, hmode⟩ := he.mc_changed hne
  · have hdata := encode_wr_data .ctl d
    refine .inl ⟨_, hf, encode_wr_register .ctl d, ?_⟩
    rw [RunMode.code_of_ofCode _ _ hmode, field_toNat]
    omega
  · exact .inr ⟨hf, hmode⟩

/-- Settles O54: the two ways to set the flag as stimuli (`TimerEffect.taifg_set`), each put as its word. -/
theorem overflowFlagSetOnlyByWrapOrWrite : Obligations.OverflowFlagSetOnlyByWrapOrWrite := by
  intro s t h hb ha
  obtain hk | ⟨st, hf, he⟩ := step_effect h
  · exact flag_not_cleared id ha (by rw [hk, hb])
  refine ⟨st.encode, hf, ?_⟩
  obtain ⟨rfl, hwrap⟩ | ⟨d, rfl, hd⟩ := he.taifg_set hb ha
  · exact .inl ⟨encode_src_toNat _, hwrap⟩
  · have hbit := encode_wr_bit .ctl d 0 (by decide)
    rw [hd, pow_zero, Nat.div_one] at hbit
    exact .inr ⟨encode_wr_register .ctl d, hbit⟩

/-- Settles O36: one read of `CTL` each (`exec_isStopped_eq`, `exec_overflowFlagRead_eq`). -/
theorem timerQueriesReadWithoutSideEffect : Obligations.TimerQueriesReadWithoutSideEffect := by
  refine ⟨fun i hi v => ?stims, fun s => ⟨ctlWord s.timer, exec_isStopped_eq s, exec_overflowFlagRead_eq s⟩⟩
  case stims =>
    simp only [List.mem_cons, List.not_mem_nil, or_false] at hi
    obtain rfl | rfl := hi <;> rfl

end Sys2Proof.Machine
end

section
/-! SUPPORT. What a stimulus does to the channels as far as the invariant goes: a wired channel stays one whose output
follows the `OUT` bit in output mode 0, an unwired place stays as it is; and what it does to the record of refusals. -/

namespace Sys2Proof.Machine

/-! ## Output mode 0 under the operations, R155 -/

/-- In output mode 0 the channel's output is its `OUT` bit (R155). -/
def Channel.OutputFollows (c : Channel) : Prop := c.outmod = .out → c.outSig = c.out

/-- The output and what it follows are the same in both channels. -/
def Channel.SameOutput (c d : Channel) : Prop := d.outmod = c.outmod ∧ d.out = c.out ∧ d.outSig = c.outSig

theorem Channel.OutputFollows.of_same {c d : Channel} (h : c.OutputFollows) (hsame : c.SameOutput d) :
    d.OutputFollows := by
  obtain ⟨hmode, hout, hsig⟩ := hsame
  intro hd
  rw [hsig, hout]
  exact h (hmode ▸ hd)

theorem followOut_outputFollows (c : Channel) : (followOut c).OutputFollows := by
  intro h
  rw [followOut_eq] at h ⊢
  exact if_pos h

theorem detectChange_sameOutput (fv : Word) (old : Bool) (c : Channel) : c.SameOutput (detectChange fv old c) := by
  obtain ⟨hmode, hout, hsig, -⟩ := detectChange_frame fv old c
  exact ⟨hmode, hout, hsig⟩

theorem syncFire_sameOutput (tar : Word) (c : Channel) : c.SameOutput (syncFire tar c) := by
  unfold syncFire
  split
  · split <;> exact ⟨rfl, rfl, rfl⟩
  · exact ⟨rfl, rfl, rfl⟩

theorem setLine_sameOutput (line : Line) (level : Bool) (c : Channel) : c.SameOutput (setLine line level c) := by
  cases line <;> exact ⟨rfl, rfl, rfl⟩

/-- Neither the match action nor the top action drives the output in output mode 0 (R156). -/
theorem compareChannel_outputFollows (new : Word) (equ0 : Bool) {c : Channel} (h : c.OutputFollows) :
    (compareChannel new equ0 c).OutputFollows := by
  rw [compareChannel_eq]
  split
  · intro hmode
    have hkept : outputAfter c.outmod (decide (new = c.ccr)) equ0 c.outSig = c.outSig := by
      rw [show c.outmod = .out from hmode]; rfl
    exact hkept.trans (h hmode)
  · exact h

/-! ## The channels under a stimulus -/

/-- From `t` to `u` the wired channels' outputs still follow in output mode 0, and the unwired places are kept. -/
def Timer.KeepsChannels (cfg : Cfg) (t u : Timer) : Prop :=
  ∀ n, (wired cfg n = true → (t.chan n).OutputFollows → (u.chan n).OutputFollows) ∧
    (wired cfg n = false → u.chan n = t.chan n)

section
variable {cfg : Cfg} {t u : Timer}

theorem keepsChannels_of_chan_eq (h : ∀ n, u.chan n = t.chan n) : t.KeepsChannels cfg u := fun n =>
  ⟨fun _ hf => by rw [h n]; exact hf, fun _ => h n⟩

theorem setChan_keepsChannels {k : Chan} {c : Channel} (hw : wired cfg k = true)
    (hc : (t.chan k).OutputFollows → c.OutputFollows) : t.KeepsChannels cfg (t.setChan k c) := by
  intro n
  rw [Timer.setChan_chan]
  split
  next hn => subst hn; exact ⟨fun _ => hc, fun hu => absurd hw (ne_true_of_eq_false hu)⟩
  next => exact ⟨fun _ => id, fun _ => rfl⟩

/-- An operation on every wired channel. -/
theorem keepsChannels_of_wired {f : Channel → Channel} (hf : ∀ c, c.OutputFollows → (f c).OutputFollows)
    (hu : ∀ n, u.chan n = if wired cfg n then f (t.chan n) else t.chan n) : t.KeepsChannels cfg u := by
  intro n
  rw [hu n]
  exact ⟨fun hw => by rw [if_pos hw]; exact hf _, fun hw => if_neg (ne_true_of_eq_false hw)⟩

theorem tick_keepsChannels (cfg : Cfg) (t : Timer) : t.KeepsChannels cfg (tick cfg t) := by
  obtain hk | ⟨new, ovf, hc, -⟩ := tick_cases cfg t
  · rw [hk]; exact keepsChannels_of_chan_eq fun _ => rfl
  · rw [hc]; exact keepsChannels_of_wired (fun _ => compareChannel_outputFollows _ _) (countTo_chan cfg new ovf t)

theorem sourceEdge_keepsChannels (cfg : Cfg) (source : ClockSource) (t : Timer) :
    t.KeepsChannels cfg (sourceEdge cfg source t) := by
  obtain ⟨presc, he⟩ | ⟨-, -, -, he⟩ := sourceEdge_cases cfg source t
  · rw [he]; exact keepsChannels_of_chan_eq fun _ => rfl
  · rw [he]; exact tick_keepsChannels cfg (reloaded t)

end

/-- The source an acknowledge names is pending, so its channel is wired (R203). -/
theorem acknowledge_keepsChannels (s : State) :
    s.timer.KeepsChannels s.cfg (acknowledge (highestPending s.cfg s.timer) s.timer) := by
  intro n
  rw [acknowledge_chan]
  split
  next hn =>
    obtain ⟨-, hw, -⟩ := sharedPending_of_highestPending hn
    exact ⟨fun _ => id, fun hu => absurd hw (ne_true_of_eq_false hu)⟩
  next => exact ⟨fun _ => id, fun _ => rfl⟩

theorem TimerEffect.keepsChannels {s : State} {st : Stim} {t : Timer} (h : TimerEffect s st t) :
    s.timer.KeepsChannels s.cfg t := by
  cases h with
  | keep | wrR | wrEx0 => exact keepsChannels_of_chan_eq fun _ => rfl
  | rdCcr n hw | wrCcr n _ hw => exact setChan_keepsChannels hw id
  | rdIv | wrIv => exact acknowledge_keepsChannels s
  | wrCtl d mc hm =>
    obtain ⟨hchans, -⟩ := writeCtl_frame d mc s.timer
    exact keepsChannels_of_chan_eq fun n => congrArg (Channels.get · n) hchans
  | wrCctl n d fv hw =>
    exact setChan_keepsChannels hw fun _ => (followOut_outputFollows _).of_same (detectChange_sameOutput _ _ _)
  | reset => exact keepsChannels_of_wired (fun _ _ _ => rfl) (resetTimer_chan s.cfg s.timer)
  | src source => exact sourceEdge_keepsChannels _ _ _
  | pin m line level k fv hk =>
    refine setChan_keepsChannels ((eventChan_eq _ _ _).1 hk).2 fun hf => ?_
    exact (hf.of_same (setLine_sameOutput line level _)).of_same (detectChange_sameOutput _ _ _)
  | sync m k hk =>
    exact setChan_keepsChannels ((eventChan_eq _ _ _).1 hk).2 fun hf => hf.of_same (syncFire_sameOutput _ _)
  | ack0 => exact setChan_keepsChannels (wired_zero s.cfg) id

/-! ## The record of refusals -/

/-- A stimulus keeps the record as it is or adds the refusal of its own index, which no record before has reached
(R215). -/
theorem OneStimulus.refusalsRecorded {s t : State} (h : OneStimulus s t) (hs : RefusalsRecorded s) :
    RefusalsRecorded t := by
  obtain ⟨hflag, hbefore, horder⟩ := hs
  obtain ⟨-, -, -, -, hpc, ⟨href, hrec⟩ | ⟨cause, href, hrec, -⟩⟩ := h
  · rw [RefusalsRecorded, href, hrec, hpc]
    exact ⟨hflag, fun r hr => Nat.lt_succ_of_lt (hbefore r hr), horder⟩
  · rw [RefusalsRecorded, href, hrec, hpc]
    refine ⟨by simp, fun r hr => ?before, List.pairwise_append.2 ⟨horder, List.pairwise_singleton _ _, ?order⟩⟩
    case before =>
      obtain hr | hr := List.mem_append.1 hr
      · exact Nat.lt_succ_of_lt (hbefore r hr)
      · rw [List.mem_singleton.1 hr]; exact Nat.lt_succ_self _
    case order =>
      intro a ha b hb
      rw [List.mem_singleton.1 hb]
      exact hbefore a ha

end Sys2Proof.Machine
end

section
/-! SUPPORT. A channel in Capture role: captures, edges and the synchroniser one lemma per outcome, the two events on a
wired channel, and the driver operations on a channel as reads and writes of its registers (R160 to R180). -/

namespace Sys2Proof.Machine

/-! ## Capture role, R161 to R165 -/

/-- `COV` after a capture, by the case of R165. -/
theorem capture_eq (v : Word) (c : Channel) :
    capture v c =
      { c with ccr := v, cov := if c.unread = true then true else c.cov, unread := true, ccifg := true } := by
  cases hread : c.unread <;> simp [capture, hread]

theorem capture_capture_cov (v w : Word) (c : Channel) : (capture w (capture v c)).cov = true :=
  Bool.or_true _

theorem detectChange_of_unchanged (fv : Word) {old : Bool} {c : Channel} (h : cciSel c = old) :
    detectChange fv old c = c := by
  simp [detectChange, h]

theorem detectChange_of_changed (fv : Word) {old new : Bool} {c : Channel} (hnew : cciSel c = new) (h : old ≠ new) :
    detectChange fv old c = edgeDetect fv old new c := by
  simp [detectChange, hnew, h.symm]

theorem edgeDetect_of_compareRole (fv : Word) (old new : Bool) {c : Channel} (h : c.cap = false) :
    edgeDetect fv old new c = c := by
  simp [edgeDetect, h]

theorem edgeDetect_of_captureRole (fv : Word) (old new : Bool) {c : Channel} (h : c.cap = true) :
    edgeDetect fv old new c = if edgeHit c.cm old new = true then trigger fv c else c := by
  simp [edgeDetect, h]

theorem detectChange_of_compareRole (fv : Word) (old : Bool) {c : Channel} (h : c.cap = false) :
    detectChange fv old c = c := by
  unfold detectChange
  split
  · exact edgeDetect_of_compareRole fv old _ h
  · rfl

/-- No change of level is an edge any selection hits. -/
theorem edgeHit_self (cm : CaptureEdge) (level : Bool) : edgeHit cm level level = false := by
  cases cm <;> cases level <;> rfl

theorem edgeHit_rising {old new : Bool} (h : old ≠ new) : edgeHit .rising old new = new := by
  rw [edgeHit, Bool.eq_not.2 h, Bool.not_not, Bool.and_self]

theorem edgeHit_falling {old new : Bool} (h : old ≠ new) : edgeHit .falling old new = !new := by
  rw [edgeHit, Bool.eq_not.2 h, Bool.and_self]

theorem edgeHit_both {old new : Bool} (h : old ≠ new) : edgeHit .both old new = true :=
  bne_iff_ne.2 h

/-- A change of level on a synchronised channel in Capture role can only latch a request (R163). -/
theorem detectChange_of_synchronised (fv : Word) (old : Bool) {c : Channel} (hcap : c.cap = true)
    (hscs : c.scs = true) :
    detectChange fv old c = { c with capReq := c.capReq || edgeHit c.cm old (cciSel c) } := by
  by_cases hlevel : cciSel c = old
  · rw [detectChange_of_unchanged fv hlevel, hlevel, edgeHit_self, Bool.or_false]
  · rw [detectChange_of_changed fv rfl (Ne.symm hlevel), edgeDetect_of_captureRole fv _ _ hcap]
    cases edgeHit c.cm old (cciSel c)
    · simp
    · simp [trigger, hscs]

section
variable {c : Channel} (tar : Word)

theorem syncFire_of_no_request (h : c.capReq = false) : syncFire tar c = c := by
  simp [syncFire, h]

theorem syncFire_of_compareRole (hreq : c.capReq = true) (hcap : c.cap = false) :
    syncFire tar c = { c with capReq := false } := by
  simp [syncFire, hreq, hcap]

theorem syncFire_of_captureRole (hreq : c.capReq = true) (hcap : c.cap = true) :
    syncFire tar c = capture tar { c with capReq := false } := by
  simp [syncFire, hreq, hcap]

end

theorem setLine_eq (line : Line) (level : Bool) (c : Channel) :
    setLine line level c = if line = .a then { c with cciA := level } else { c with cciB := level } := by
  cases line <;> rfl

/-! ## Events on a wired channel, R160, R164 -/

section
variable {s : State} {n : BitVec 3} {k : Chan} (hn : n.toNat = k.val) (hw : wired s.cfg k = true)
include hn hw

theorem evPin_wired (line : Line) (level : Bool) :
    evPin n line level s =
      complete (s.timer.setChan k (detectChange (Config.draw s.draws) (cciSel (s.timer.chan k))
        (setLine line level (s.timer.chan k)))) { s with draws := s.draws + 1 } := by
  rw [evPin, (eventChan_eq s.cfg n k).2 ⟨hn, hw⟩]; rfl

theorem evSync_wired :
    evSync n s = complete (s.timer.setChan k (syncFire s.timer.tar (s.timer.chan k))) s := by
  rw [evSync, (eventChan_eq s.cfg n k).2 ⟨hn, hw⟩]

end

/-! ## Driver operations of one transaction -/

section
variable {s : State} {reg : Reg} {cause : RefusalCause}

theorem driverRead_of_refused (f : Word → OpResult) (h : busRead reg s = refuse cause s) :
    driverRead reg f s = { refuse cause s with result := none } := by
  rw [driverRead, h]; rfl

theorem driverWrite_of_refused {d : Word} (h : busWrite reg d s = refuse cause s) :
    driverWrite reg d s = { refuse cause s with result := none } := by
  rw [driverWrite, h]

end

section
variable {s : State} {n : Chan}

theorem driverRead_cctl_wired (f : Word → OpResult) (hw : wired s.cfg n = true) :
    driverRead (.cctl n) f s =
      { s with pc := s.pc + 1, rdata := some (cctlWord (s.timer.chan n)),
               result := some (f (cctlWord (s.timer.chan n))) } := by
  have hread : busRead (.cctl n) s = _ := rdCctl_wired hw
  rw [driverRead, hread]; rfl

theorem driverRead_ccr_wired (f : Word → OpResult) (hw : wired s.cfg n = true) :
    driverRead (.ccr n) f s =
      { s with timer := s.timer.setChan n { s.timer.chan n with unread := false }, pc := s.pc + 1,
               rdata := some (s.timer.chan n).ccr, result := some (f (s.timer.chan n).ccr) } := by
  have hread : busRead (.ccr n) s = _ := rdCcr_wired hw
  rw [driverRead, hread]; rfl

theorem driverWrite_cctl_wired (d : Word) (hw : wired s.cfg n = true) :
    driverWrite (.cctl n) d s =
      { s with timer := s.timer.setChan n (writeCctl (Config.draw s.draws) d (s.timer.chan n)), pc := s.pc + 1,
               rdata := none, result := none, draws := s.draws + 1 } := by
  have hwrite : busWrite (.cctl n) d s = _ := wrCctl_wired d hw
  rw [driverWrite, hwrite]; rfl

theorem driverWrite_ccr_wired (d : Word) (hw : wired s.cfg n = true) :
    driverWrite (.ccr n) d s =
      { s with timer := s.timer.setChan n { s.timer.chan n with ccr := d }, pc := s.pc + 1, rdata := none,
               result := none } := by
  have hwrite : busWrite (.ccr n) d s = _ := wrCcr_wired d hw
  rw [driverWrite, hwrite]; rfl

/-- `get_value()` reads `CCR[n]` and marks it read (R174). -/
theorem exec_chGetValue_wired (hw : wired s.cfg n = true) :
    exec (.chGetValue n) s =
      .next { s with timer := s.timer.setChan n { s.timer.chan n with unread := false }, pc := s.pc + 1,
                     rdata := some (s.timer.chan n).ccr, result := some (.value (s.timer.chan n).ccr) } := by
  rw [exec_chGetValue, driverRead_ccr_wired _ hw]

/-- `flag_read()` reads the flag and nothing else happens (R175). -/
theorem exec_chFlagRead_wired (hw : wired s.cfg n = true) :
    exec (.chFlagRead n) s =
      .next { s with pc := s.pc + 1, rdata := some (cctlWord (s.timer.chan n)),
                     result := some (.truth (s.timer.chan n).ccifg) } := by
  rw [exec_chFlagRead, driverRead_cctl_wired _ hw, cctlWord_ccifg]

/-- `capture_overflow_and_flag_read()` reads both bits at once and nothing else happens (R179). -/
theorem exec_chCaptureOverflowAndFlagRead_wired (hw : wired s.cfg n = true) :
    exec (.chCaptureOverflowAndFlagRead n) s =
      .next { s with pc := s.pc + 1, rdata := some (cctlWord (s.timer.chan n)),
                     result := some (.pair (s.timer.chan n).cov (s.timer.chan n).ccifg) } := by
  rw [exec_chCaptureOverflowAndFlagRead, driverRead_cctl_wired _ hw, cctlWord_cov, cctlWord_ccifg]

end

/-! ## Writing a register word to `CCTL[n]` -/

/-- `CCTL[n]` under a mask, field by field (R64). -/
theorem cctlWord_and (c : Channel) (m : Word) :
    cctlWord c &&& m =
      fieldAt (c.cm.code &&& m.extractLsb' 14 2) 14 ||| fieldAt (c.ccis.code &&& m.extractLsb' 12 2) 12 |||
        fieldAt (BitVec.ofBool c.scs &&& m.extractLsb' 11 1) 11 |||
        fieldAt (BitVec.ofBool c.scci &&& m.extractLsb' 10 1) 10 |||
        fieldAt (BitVec.ofBool c.cap &&& m.extractLsb' 8 1) 8 ||| fieldAt (c.outmod.code &&& m.extractLsb' 5 3) 5 |||
        fieldAt (BitVec.ofBool c.ccie &&& m.extractLsb' 4 1) 4 |||
        fieldAt (BitVec.ofBool (cciSel c) &&& m.extractLsb' 3 1) 3 |||
        fieldAt (BitVec.ofBool c.out &&& m.extractLsb' 2 1) 2 |||
        fieldAt (BitVec.ofBool c.cov &&& m.extractLsb' 1 1) 1 |||
        fieldAt (BitVec.ofBool c.ccifg &&& m.extractLsb' 0 1) 0 := by
  simp only [cctlWord, BitVec.and_or_distrib_right, fieldAt_and]

@[simp] theorem field_and_seven (v : BitVec 3) : v &&& 7#3 = v := BitVec.and_allOnes

/-- The live input level does not depend on the stored flags and the enable (R25). -/
theorem cciSel_flags (c : Channel) (ccie cov ccifg : Bool) :
    cciSel { c with ccie := ccie, cov := cov, ccifg := ccifg } = cciSel c := rfl

theorem flagClearData_cctlWord (c : Channel) :
    flagClearData (cctlWord c) = cctlWord { c with ccifg := false } := by
  rw [flagClearData, cctlWord_and]
  simp [cctlWord, cciSel_flags]

theorem disableData_cctlWord (c : Channel) :
    disableData (cctlWord c) = cctlWord { c with ccie := false } := by
  rw [disableData, cctlWord_and]
  simp [cctlWord, cciSel_flags]

theorem clearOverflowAndFlagData_cctlWord (c : Channel) :
    clearOverflowAndFlagData (cctlWord c) = cctlWord { c with cov := false, ccifg := false } := by
  rw [clearOverflowAndFlagData, cctlWord_and]
  simp [cctlWord, cciSel_flags]

theorem enableData_cctlWord (c : Channel) :
    enableData (cctlWord c) = cctlWord { c with ccie := true } := by
  have hset : fieldAt (BitVec.ofBool true) 4 = fieldAt (BitVec.ofBool c.ccie) 4 ||| 0x0010 := by cases c.ccie <;> rfl
  simp only [enableData, cctlWord, cciSel_flags, hset]
  ac_rfl

/-- `b` with the writable fields of `CCTL[n]` as in `d`, and the output following in output mode 0 (R64, R85, R155). -/
def Channel.withCctlOf (b d : Channel) : Channel :=
  { b with
    cm := d.cm, ccis := d.ccis, scs := d.scs, cap := d.cap, outmod := d.outmod, ccie := d.ccie, out := d.out,
    cov := d.cov, ccifg := d.ccifg, outSig := if d.outmod = .out then d.out else b.outSig }

theorem writeCctl_cctlWord (fv : Word) (d b : Channel) :
    writeCctl fv (cctlWord d) b = detectChange fv (cciSel b) (b.withCctlOf d) := by
  rw [writeCctl, storeCctl_cctlWord, followOut_eq]; rfl

/-- The same input selection on the same lines is the same level (R25). -/
theorem cciSel_withCctlOf {b d : Channel} (h : b.ccis = d.ccis) : cciSel (b.withCctlOf d) = cciSel b := by
  simp only [cciSel, Channel.withCctlOf, h]

/-! ## Read, gap, write -/

/-- The state the write of a read-modify-write of `CCTL[n]` meets: the register read, then whatever falls between
(R46). -/
def afterCctlRead (n : Chan) (s : State) : State :=
  fillGap { s with pc := s.pc + 1, rdata := some (cctlWord (s.timer.chan n)) }

theorem afterCctlRead_of_no_gap (n : Chan) {s : State} (h : s.gaps = []) :
    afterCctlRead n s = { s with pc := s.pc + 1, rdata := some (cctlWord (s.timer.chan n)) } :=
  fillGap_empty _ h

/-- An operation whose data is the register word of `d` writes the fields of `d` on the channel as the gap left it, and
a change of the selected level is an edge as in any write (R162). -/
theorem driverModify_cctl_of_cctlWord {f : Word → Word} {s : State} {n : Chan} {d : Channel}
    (hw : wired s.cfg n = true) (hdata : f (cctlWord (s.timer.chan n)) = cctlWord d) :
    driverModify (.cctl n) f s =
      { afterCctlRead n s with
        timer := (afterCctlRead n s).timer.setChan n
          (detectChange (Config.draw (afterCctlRead n s).draws) (cciSel ((afterCctlRead n s).timer.chan n))
            (((afterCctlRead n s).timer.chan n).withCctlOf d)),
        pc := (afterCctlRead n s).pc + 1, rdata := none, result := none, draws := (afterCctlRead n s).draws + 1 } := by
  have hwired : wired (afterCctlRead n s).cfg n = true := by rw [afterCctlRead, fillGap_cfg]; exact hw
  have hwrite := wrCctl_wired (cctlWord d) hwired
  rw [writeCctl_cctlWord] at hwrite
  rw [driverModify_cctl n f s hw, hdata]
  exact congrArg (fun u : State => { u with result := none }) hwrite

/-! ## The data of the two configuring operations, R70 -/

/-- The data of `config_output_mode` stores the mode and 0 in every other writable field (R171). -/
theorem storeCctl_configOutputModeData (mode : OutputMode) (c : Channel) :
    storeCctl (configOutputModeData mode) c =
      { c with cm := .none, ccis := .lineA, scs := false, cap := false, outmod := mode, ccie := false, out := false,
               cov := false, ccifg := false } := by
  cases mode <;> rfl

/-- The data of `config_capture_mode` stores edge and input, sets `SCS` and `CAP`, and 0 in every other writable field
(R172). -/
theorem storeCctl_configCaptureModeData (edge : CaptureEdge) (input : CaptureInput) (c : Channel) :
    storeCctl (configCaptureModeData edge input) c =
      { c with cm := edge, ccis := input, scs := true, cap := true, outmod := .out, ccie := false, out := false,
               cov := false, ccifg := false } := by
  cases edge <;> cases input <;> rfl

/-- A channel after `config_output_mode`: Compare role, the mode, and every other writable field 0 (R155, R171). -/
def Channel.inOutputMode (c : Channel) (mode : OutputMode) : Channel :=
  { c with cm := .none, ccis := .lineA, scs := false, cap := false, outmod := mode, ccie := false, out := false,
           cov := false, ccifg := false, outSig := if mode = .out then false else c.outSig }

/-- In Compare role no level change made by the write does anything (R161). -/
theorem writeCctl_configOutputModeData (fv : Word) (mode : OutputMode) (c : Channel) :
    writeCctl fv (configOutputModeData mode) c = c.inOutputMode mode := by
  rw [writeCctl, storeCctl_configOutputModeData, followOut_eq]
  exact detectChange_of_compareRole fv _ rfl

/-- Beside the mode only the level of line A and `SCCI` are read back (R84, R171). -/
theorem cctlWord_inOutputMode_toNat (c : Channel) (mode : OutputMode) :
    (cctlWord (c.inOutputMode mode)).toNat = 32 * mode.code.toNat + 8 * c.cciA.toNat + 1024 * c.scci.toNat := by
  have hzero : (0 : BitVec 2).toNat = 0 := rfl
  have hlevel : cciSel (c.inOutputMode mode) = c.cciA := rfl
  rw [cctlWord_toNat, hlevel]
  simp only [Channel.inOutputMode, CaptureEdge.code, CaptureInput.code, hzero, Bool.toNat_false]
  omega

/-- `config_capture_mode` leaves the channel capturing synchronised, so a reselection that makes an edge can only latch
a request (R162, R163, R172). -/
theorem writeCctl_configCaptureModeData (fv : Word) (edge : CaptureEdge) (input : CaptureInput) (c : Channel) :
    writeCctl fv (configCaptureModeData edge input) c =
      { c with cm := edge, ccis := input, scs := true, cap := true, outmod := .out, ccie := false, out := false,
               cov := false, ccifg := false, outSig := false,
               capReq := c.capReq || edgeHit edge (cciSel c) (cciSel { c with ccis := input }) } := by
  rw [writeCctl, storeCctl_configCaptureModeData, followOut_eq, detectChange_of_synchronised fv _ rfl rfl]
  rfl

/-! ## Runs -/

theorem runInstrs_cons {i : Instr} {s t : State} (h : exec i s = .next t) (is : List Instr) :
    runInstrs (i :: is) s = runInstrs is t := by
  rw [runInstrs, h]

/-! ## Two captures without a read in between, R165 -/

/-- The channel captures both edges of line A through the synchroniser. -/
structure Channel.CapturesBothEdgesOfA (c : Channel) : Prop where
  cap : c.cap = true
  scs : c.scs = true
  cm : c.cm = .both
  ccis : c.ccis = .lineA

/-- A channel on which a change of line A has latched a request. -/
def Channel.requestedByLineA (c : Channel) : Channel := { c with cciA := !c.cciA, capReq := true }

/-- A channel that captures both edges of line A latches a request when the line changes (R163). -/
theorem detectChange_lineA_toggled (fv : Word) {c : Channel} (h : c.CapturesBothEdgesOfA) :
    detectChange fv (cciSel c) (setLine .a (!c.cciA) c) = c.requestedByLineA := by
  have hset : setLine .a (!c.cciA) c = { c with cciA := !c.cciA } := rfl
  have hold : cciSel c = c.cciA := by simp only [cciSel, h.ccis]
  have hnew : cciSel { c with cciA := !c.cciA } = !c.cciA := by simp only [cciSel, h.ccis]
  have hhit : edgeHit c.cm c.cciA (!c.cciA) = true := by rw [h.cm]; exact edgeHit_both (Bool.not_ne_self _).symm
  rw [hset, hold, detectChange_of_synchronised fv _ (c := { c with cciA := !c.cciA }) h.cap h.scs, hnew, hhit,
    Bool.or_true]
  rfl

/-- The synchroniser, an edge of line A and the synchroniser again: the second capture finds the first one unread. -/
theorem syncFire_twice (tar : Word) {c : Channel} (hcap : c.cap = true) (hreq : c.capReq = true) :
    (syncFire tar (syncFire tar c).requestedByLineA).cov = true ∧
    (syncFire tar (syncFire tar c).requestedByLineA).ccifg = true ∧
    (syncFire tar (syncFire tar c).requestedByLineA).ccr = tar := by
  rw [syncFire_of_captureRole tar hreq hcap, syncFire_of_captureRole]
  · exact ⟨Bool.or_true _, rfl, rfl⟩
  · rfl
  · exact hcap

/-- The synchroniser touches neither the configuration of the channel nor its lines. -/
theorem syncFire_capturesBothEdgesOfA {c : Channel} (tar : Word) (h : c.CapturesBothEdgesOfA)
    (hreq : c.capReq = true) : (syncFire tar c).CapturesBothEdgesOfA ∧ (syncFire tar c).cciA = c.cciA := by
  rw [syncFire_of_captureRole tar hreq h.cap]
  exact ⟨⟨h.cap, h.scs, h.cm, h.ccis⟩, rfl⟩

/-- What the run below depends on: configuration, gaps and counter are those of `s`, and channel `k` is `c`. -/
structure SameSetupWithChannel (k : Chan) (c : Channel) (s u : State) : Prop where
  cfg : u.cfg = s.cfg
  gaps : u.gaps = s.gaps
  tar : u.timer.tar = s.timer.tar
  chan : u.timer.chan k = c

section
variable {s : State} {n : BitVec 3} {k : Chan} (hn : n.toNat = k.val) (hw : wired s.cfg k = true)
include hn hw

theorem exec_sync_wired :
    ∃ u, exec (.sync n) s = .next u ∧ SameSetupWithChannel k (syncFire s.timer.tar (s.timer.chan k)) s u := by
  refine ⟨_, exec_sync n s, ?_⟩
  rw [evSync_wired hn hw]
  exact ⟨rfl, rfl, rfl, Timer.setChan_chan_same _ _ _⟩

theorem exec_pin_lineA_requests (h : (s.timer.chan k).CapturesBothEdgesOfA) :
    ∃ u, exec (.pin n .a (!(s.timer.chan k).cciA)) s = .next u ∧
      SameSetupWithChannel k (s.timer.chan k).requestedByLineA s u := by
  refine ⟨_, exec_pin n .a _ s, ?_⟩
  rw [evPin_wired hn hw, detectChange_lineA_toggled _ h]
  exact ⟨rfl, rfl, rfl, Timer.setChan_chan_same _ _ _⟩

/-- The synchroniser, an edge of line A, the synchroniser, as a run. -/
theorem run_captures_twice (h : (s.timer.chan k).CapturesBothEdgesOfA) (hreq : (s.timer.chan k).capReq = true) :
    ∃ u, (∀ is, runInstrs (.sync n :: .pin n .a (!(s.timer.chan k).cciA) :: .sync n :: is) s = runInstrs is u) ∧
      SameSetupWithChannel k
        (syncFire s.timer.tar (syncFire s.timer.tar (s.timer.chan k)).requestedByLineA) s u := by
  obtain ⟨s₁, hsync, h₁⟩ := exec_sync_wired hn hw
  obtain ⟨hcaptures, hline⟩ := syncFire_capturesBothEdgesOfA s.timer.tar h hreq
  rw [← h₁.chan] at hcaptures hline
  obtain ⟨s₂, hedge, h₂⟩ := exec_pin_lineA_requests hn (h₁.cfg ▸ hw) hcaptures
  rw [hline] at hedge
  obtain ⟨s₃, hagain, h₃⟩ := exec_sync_wired hn (h₂.cfg ▸ h₁.cfg ▸ hw)
  refine ⟨s₃, fun is => ?run, h₃.cfg.trans (h₂.cfg.trans h₁.cfg), h₃.gaps.trans (h₂.gaps.trans h₁.gaps),
    h₃.tar.trans (h₂.tar.trans h₁.tar), ?chan⟩
  case run => exact (runInstrs_cons hsync _).trans ((runInstrs_cons hedge _).trans (runInstrs_cons hagain is))
  case chan => rw [h₃.chan, h₂.chan, h₂.tar, h₁.chan, h₁.tar]

end

/-- `clear_overflow_and_flag()` with nothing inside it clears the two bits and keeps the input level, so no edge is made
(R180). -/
theorem exec_chClearOverflowAndFlag_of_no_gap {s : State} {n : Chan} (hw : wired s.cfg n = true) (hgaps : s.gaps = []) :
    ∃ u, exec (.chClearOverflowAndFlag n) s = .next u ∧ u.cfg = s.cfg ∧ (u.timer.chan n).cov = false ∧
      (u.timer.chan n).ccifg = false := by
  have hexec := exec_chClearOverflowAndFlag n s
  rw [driverModify_cctl_of_cctlWord hw (clearOverflowAndFlagData_cctlWord _), afterCctlRead_of_no_gap n hgaps] at hexec
  have hlevel : cciSel ((s.timer.chan n).withCctlOf { s.timer.chan n with cov := false, ccifg := false }) =
      cciSel (s.timer.chan n) := cciSel_withCctlOf rfl
  refine ⟨_, hexec, rfl, ?_⟩
  dsimp only
  rw [Timer.setChan_chan_same, detectChange_of_unchanged _ hlevel]
  exact ⟨rfl, rfl⟩

end Sys2Proof.Machine
end

section
/-! The statements on the channels: the invariant of the machine, the event path of Capture role, and the driver
operations on a channel. -/

namespace Sys2Proof.Machine

/-- Settles O49: the channels keep their part by the effect of the stimulus on the timer, the record keeps its by the
bookkeeping of one stimulus. -/
theorem stepKeepsInvariant : Obligations.StepKeepsInvariant := by
  intro s t ⟨hmode, hidle, hrec⟩ h
  obtain ⟨hcfg, -⟩ := step_one h
  have hkeeps : s.timer.KeepsChannels s.cfg t.timer := by
    obtain hk | ⟨st, -, he⟩ := step_effect h
    · exact keepsChannels_of_chan_eq fun _ => by rw [hk]
    · exact he.keepsChannels
  refine ⟨fun n hw => ?follows, fun n hw => ?idle, (step_one h).refusalsRecorded hrec⟩
  case follows =>
    rw [hcfg] at hw
    exact (hkeeps n).1 hw (hmode n hw)
  case idle =>
    rw [hcfg] at hw
    rw [(hkeeps n).2 hw]
    exact hidle n hw

/-- Settles O27: the line is set, and the level change is judged by `detectChange_outcome`. -/
theorem pinSetsLineAndDetectsEdge : Obligations.PinSetsLineAndDetectsEdge := by
  intro s n k line level hn hw
  refine ⟨setLine line level (s.timer.chan k), _, ?_, setLine_eq _ _ _, detectChange_outcome _ _ _⟩
  rw [exec_pin, evPin_wired hn hw]; rfl

/-- Settles O28: in Capture role the trigger waits on `edgeHit`, which has one lemma per selection. -/
theorem edgeDetectorActsOnSelectedEdges : Obligations.EdgeDetectorActsOnSelectedEdges := by
  intro fv c old new
  refine ⟨detectChange_of_unchanged fv rfl, fun hnew hne => detectChange_of_changed fv hnew hne, fun hne =>
    ⟨fun hcap => edgeDetect_of_compareRole fv old new hcap, fun hcap hcm => ?never, fun hcap hcm => ?rising,
      fun hcap hcm => ?falling, fun hcap hcm => ?both⟩⟩
  all_goals rw [edgeDetect_of_captureRole fv _ _ hcap, hcm]
  case never => rfl
  case rising => rw [edgeHit_rising hne]
  case falling => rw [edgeHit_falling hne]; cases new <;> rfl
  case both => rw [edgeHit_both hne]; rfl

/-- Settles O30: the three outcomes of `syncFire`. -/
theorem syncCapturesCounter : Obligations.SyncCapturesCounter := by
  intro s n k hn hw c
  rw [exec_sync, evSync_wired hn hw]
  refine ⟨fun hreq => ?nothing, fun hreq hcap => ?dropped, fun hreq hcap => ?captured⟩
  case nothing => rw [syncFire_of_no_request _ hreq, Timer.setChan_self]; rfl
  case dropped => rw [syncFire_of_compareRole _ hreq hcap]; rfl
  case captured => rw [syncFire_of_captureRole _ hreq hcap]; rfl

/-- The four operations write the register word of the channel with its enable and flags as the operation sets them. -/
theorem channelOperation_data {s : State} {n : Chan} {p : Instr × Bool × Bool × Bool}
    (hp : p ∈ [(Instr.chFlagClear n, (s.timer.chan n).ccie, (s.timer.chan n).cov, false),
      (.chEnable n, true, (s.timer.chan n).cov, (s.timer.chan n).ccifg),
      (.chDisable n, false, (s.timer.chan n).cov, (s.timer.chan n).ccifg),
      (.chClearOverflowAndFlag n, (s.timer.chan n).ccie, false, false)]) :
    ∃ f, exec p.1 s = .next (driverModify (.cctl n) f s) ∧
      f (cctlWord (s.timer.chan n)) =
        cctlWord { s.timer.chan n with ccie := p.2.1, cov := p.2.2.1, ccifg := p.2.2.2 } := by
  simp only [List.mem_cons, List.not_mem_nil, or_false] at hp
  obtain rfl | rfl | rfl | rfl := hp
  · exact ⟨_, exec_chFlagClear n s, flagClearData_cctlWord _⟩
  · exact ⟨_, exec_chEnable n s, enableData_cctlWord _⟩
  · exact ⟨_, exec_chDisable n s, disableData_cctlWord _⟩
  · exact ⟨_, exec_chClearOverflowAndFlag n s, clearOverflowAndFlagData_cctlWord _⟩

/-- Settles O41: one write of the register word with enable and flags as the operation sets them; the same input
selection is the same level, which is no edge. -/
theorem channelFlagAndEnableOperations : Obligations.ChannelFlagAndEnableOperations := by
  intro s n hw c p hp
  obtain ⟨f, hexec, hdata⟩ := channelOperation_data hp
  rw [driverModify_cctl_of_cctlWord hw hdata] at hexec
  refine ⟨cctlWord c, _, rfl, hexec, detectChange_outcome _ _ _, fun hsel => ?kept, afterCctlRead_of_no_gap n⟩
  case kept => exact detectChange_of_unchanged _ (cciSel_withCctlOf hsel)

/-- Settles O42: the write leaves `Channel.inOutputMode`, and that is what a read of the register gives back. -/
theorem configOutputModeZeroesTheRest : Obligations.ConfigOutputModeZeroesTheRest := by
  intro s n mode
  refine ⟨fun _ => rfl, fun hw => ⟨_, ?wired, rfl, ?word⟩, fun hw => ?unwired⟩
  case wired =>
    rw [exec_chConfigOutputMode, driverWrite_cctl_wired _ hw, writeCctl_configOutputModeData]; rfl
  case word =>
    rw [Timer.setChan_chan_same]
    exact cctlWord_inOutputMode_toNat _ _
  case unwired =>
    rw [exec_chConfigOutputMode, driverWrite_of_refused (reg := .cctl n) (wrCctl_unwired _ hw)]; rfl

/-- Settles O43: the request is the one latched before or by the edge the reselection makes (`edge_iff`). -/
theorem configCaptureModeForcesSynchronisedCapture : Obligations.ConfigCaptureModeForcesSynchronisedCapture := by
  intro s n edge input c level
  refine ⟨fun _ => rfl, fun hw => ⟨c.capReq || edgeHit edge (cciSel c) level, ?request, ?wired⟩,
    fun hw => ?unwired⟩
  case request =>
    rw [Bool.or_eq_true, ← edge_iff, Bool.true_and]
  case wired =>
    rw [exec_chConfigCaptureMode, driverWrite_cctl_wired _ hw, writeCctl_configCaptureModeData]; rfl
  case unwired =>
    rw [exec_chConfigCaptureMode, driverWrite_of_refused (reg := .cctl n) (wrCctl_unwired _ hw)]; rfl

/-- Settles O44: a write and a read of `CCR[n]`; the read after the write finds the value written. -/
theorem setValueThenGetValue : Obligations.SetValueThenGetValue := by
  intro s n x c
  refine ⟨fun _ => ⟨rfl, rfl⟩, fun hw => ?wired, fun hw i hi => ?unwired⟩
  case wired =>
    have hset := exec_chSetValue n x s
    rw [driverWrite_ccr_wired x hw] at hset
    refine ⟨hset, exec_chGetValue_wired hw, _,
      (runInstrs_cons hset _).trans (runInstrs_cons (exec_chGetValue_wired ?_) []), ?_⟩
    · exact hw
    · rw [Timer.setChan_chan_same]
  case unwired =>
    simp only [List.mem_cons, List.not_mem_nil, or_false] at hi
    obtain rfl | rfl := hi
    · rw [exec_chSetValue, driverWrite_of_refused (reg := .ccr n) (wrCcr_unwired x hw)]; rfl
    · rw [exec_chGetValue, driverRead_of_refused (reg := .ccr n) _ (rdCcr_unwired hw)]; rfl

/-- Settles O46: after `run_captures_twice` both bits are set, and `clear_overflow_and_flag()` clears them. -/
theorem twoCapturesBeforeReadReportOverflow : Obligations.TwoCapturesBeforeReadReportOverflow := by
  intro s n k hn hw hgaps hcap hscs hcm hccis hreq edge
  obtain ⟨u, hrun, hu⟩ := run_captures_twice hn hw ⟨hcap, hscs, hcm, hccis⟩ hreq
  have huw : wired u.cfg k = true := by rw [hu.cfg, hw]
  obtain ⟨hcov, hccifg, hccr⟩ := syncFire_twice s.timer.tar hcap hreq
  rw [← hu.chan] at hcov hccifg hccr
  refine ⟨?overflow, ?cleared⟩
  case overflow =>
    refine ⟨_, (hrun _).trans (runInstrs_cons (exec_chCaptureOverflowAndFlagRead_wired huw) []), ?_, hccr⟩
    rw [hcov, hccifg]
  case cleared =>
    obtain ⟨t, hclear, htcfg, htcov, htccifg⟩ := exec_chClearOverflowAndFlag_of_no_gap huw (hu.gaps.trans hgaps)
    have htw : wired t.cfg k = true := by rw [htcfg, huw]
    have hread := runInstrs_cons (exec_chCaptureOverflowAndFlagRead_wired htw) []
    refine ⟨_, ((hrun _).trans (runInstrs_cons hclear _)).trans hread, ?_⟩
    rw [htcov, htccifg]

/-- Settles O29: `capture_eq`, and a capture leaves `unread` set for the next one (`capture_capture_cov`). -/
theorem captureStoresValueAndLatchesOverflow : Obligations.CaptureStoresValueAndLatchesOverflow :=
  fun v w c => ⟨capture_eq v c, rfl, capture_capture_cov v w c, rfl, capture_cov_of_read v⟩

/-- Settles O37: one read of `CCTLn` each, whose bits 1 and 0 are `COV` and `CCIFG`. -/
theorem channelQueriesReadWithoutSideEffect : Obligations.ChannelQueriesReadWithoutSideEffect := by
  intro s n
  refine ⟨fun i hi v => ?stims, fun hw => ⟨cctlWord (s.timer.chan n), exec_chFlagRead_wired hw,
    exec_chCaptureOverflowAndFlagRead_wired hw⟩, fun hw i hi => ?unwired⟩
  all_goals
    simp only [List.mem_cons, List.not_mem_nil, or_false] at hi
  case stims => obtain rfl | rfl := hi <;> rfl
  case unwired =>
    obtain rfl | rfl := hi
    · rw [exec_chFlagRead, driverRead_of_refused (reg := .cctl n) _ (rdCctl_unwired hw)]; rfl
    · rw [exec_chCaptureOverflowAndFlagRead, driverRead_of_refused (reg := .cctl n) _ (rdCctl_unwired hw)]; rfl

end Sys2Proof.Machine
end

section
/-! SUPPORT. The sources of the vector register as one kind of thing, channel or overflow: which are pending, which one the
register names, and what reads of it leave of them (R190, R203 to R205). -/

namespace Sys2Proof.Machine

/-! ## Sources -/

theorem lt_nCh_of_wired {cfg : Cfg} {n : Chan} (h : wired cfg n = true) : n.val < nCh cfg :=
  decide_eq_true_iff.1 h

namespace VecSource

/-- The flag of a source (R200). -/
def flag (t : Timer) : VecSource → Bool
  | .channel n => (t.chan n).ccifg
  | .overflow => t.taifg

/-- The enable of a source (R200). -/
def enabled (t : Timer) : VecSource → Bool
  | .channel n => (t.chan n).ccie
  | .overflow => t.taie

/-- The source drives the shared line at all: the overflow, and every wired channel but channel 0 (R206). -/
def Shared (cfg : Cfg) : VecSource → Prop
  | .channel n => n ≠ 0 ∧ wired cfg n = true
  | .overflow => True

/-- The source is pending on the shared line (R200). -/
def Pending (s : State) (x : VecSource) : Prop :=
  x.Shared s.cfg ∧ x.flag s.timer = true ∧ x.enabled s.timer = true

/-- The place of a source in the priority order: the channels ascending, then the overflow (R204). -/
def rank (cfg : Cfg) : VecSource → Nat
  | .channel n => n.val
  | .overflow => nCh cfg

theorem pending_channel_iff (s : State) (n : Chan) : (VecSource.channel n).Pending s ↔ SharedPending s n := and_assoc

theorem pending_overflow_iff (s : State) :
    VecSource.overflow.Pending s ↔ s.timer.taifg = true ∧ s.timer.taie = true := iff_of_eq (true_and _)

/-- `N_CH` is the last place a pending source can have. -/
theorem Pending.rank_le {s : State} {x : VecSource} (h : x.Pending s) : x.rank s.cfg ≤ nCh s.cfg := by
  match x with
  | .overflow => exact le_rfl
  | .channel n =>
    obtain ⟨-, hw, -⟩ := (pending_channel_iff s n).1 h
    exact (lt_nCh_of_wired hw).le

/-! ## Sources under an acknowledge -/

/-- An acknowledge clears the flag it names and no other (R205). -/
theorem flag_acknowledge (src : Option VecSource) (t : Timer) (x : VecSource) :
    x.flag (acknowledge src t) = true ↔ x.flag t = true ∧ src ≠ some x := by
  match x with
  | .channel n =>
    rw [flag, flag, acknowledge_chan]
    split
    next hn => simp [hn]
    next hn => simp [hn]
  | .overflow =>
    match src with
    | none | some (.channel _) => simp [flag, acknowledge, clearCcifg]
    | some .overflow => simp [flag, acknowledge]

/-- An acknowledge does not touch the enables (R205). -/
theorem enabled_acknowledge (src : Option VecSource) (t : Timer) (x : VecSource) :
    x.enabled (acknowledge src t) = x.enabled t := by
  match x with
  | .channel n =>
    rw [enabled, acknowledge_chan]
    split <;> rfl
  | .overflow =>
    match src with
    | none | some (.channel _) | some .overflow => rfl

end VecSource

/-! ## The source the vector register names -/

/-- The vector register names the pending source that is first in the order, and names none only where none is pending
(R203, R204). -/
theorem highestPending_cases (s : State) :
    (∃ x : VecSource, highestPending s.cfg s.timer = some x ∧ x.Pending s ∧
      ∀ y : VecSource, y.Pending s → y ≠ x → x.rank s.cfg < y.rank s.cfg) ∨
    (highestPending s.cfg s.timer = none ∧ ∀ x : VecSource, ¬ x.Pending s) := by
  obtain ⟨n, hp, hlow⟩ | hnone := sharedPending_cases s
  · refine .inl ⟨.channel n, highestPending_channel s n hp hlow, (VecSource.pending_channel_iff s n).2 hp,
      fun y hy hne => ?_⟩
    match y with
    | .overflow =>
      obtain ⟨-, hw, -⟩ := hp
      exact lt_nCh_of_wired hw
    | .channel m =>
      have hle : n ≤ m := not_lt.1 fun hlt => hlow m hlt ((VecSource.pending_channel_iff s m).1 hy)
      exact lt_of_le_of_ne hle fun heq => hne (congrArg VecSource.channel (Fin.ext heq.symm))
  · have hchan (n : Chan) : ¬ (VecSource.channel n).Pending s := mt (VecSource.pending_channel_iff s n).1 (hnone n)
    have hiff := (overflowPending_iff s.timer).trans (VecSource.pending_overflow_iff s).symm
    by_cases hovf : overflowPending s.timer = true
    · refine .inl ⟨.overflow, by rw [highestPending_none s hnone, if_pos hovf], hiff.1 hovf,
        fun y hy hne => ?_⟩
      match y with
      | .overflow => exact absurd rfl hne
      | .channel n => exact absurd hy (hchan n)
    · refine .inr ⟨by rw [highestPending_none s hnone, if_neg hovf], fun x => ?_⟩
      match x with
      | .overflow => exact mt hiff.2 hovf
      | .channel n => exact hchan n

theorem pending_of_highestPending {s : State} {x : VecSource} (h : highestPending s.cfg s.timer = some x) :
    x.Pending s := by
  match x with
  | .channel n => exact (VecSource.pending_channel_iff s n).2 (sharedPending_of_highestPending h)
  | .overflow =>
    exact (VecSource.pending_overflow_iff s).2 ((overflowPending_iff _).1 (overflowPending_of_highestPending h))

theorem highestPending_of_none_pending {s : State} (h : ∀ x : VecSource, ¬ x.Pending s) :
    highestPending s.cfg s.timer = none := by
  obtain ⟨x, -, hx, -⟩ | ⟨hnone, -⟩ := highestPending_cases s
  · exact absurd hx (h x)
  · exact hnone

theorem highestPending_of_sole {s : State} {x : VecSource} (hx : x.Pending s)
    (hsole : ∀ y : VecSource, y.Pending s → y = x) : highestPending s.cfg s.timer = some x := by
  obtain ⟨y, hy, hp, -⟩ | ⟨-, hnone⟩ := highestPending_cases s
  · rw [hy, hsole y hp]
  · exact absurd hx (hnone x)

/-! ## Calls of `read_vector()` -/

/-- The state after `read_vector()`. -/
def afterReadVector (s : State) : State := { rdIv s with result := some (.value (ivVal s.cfg s.timer)) }

@[simp] theorem afterReadVector_cfg (s : State) : (afterReadVector s).cfg = s.cfg := rfl

@[simp] theorem afterReadVector_timer (s : State) :
    (afterReadVector s).timer = acknowledge (highestPending s.cfg s.timer) s.timer := rfl

theorem exec_readVector_eq (s : State) : exec .readVector s = .next (afterReadVector s) := exec_readVector s

theorem runInstrs_replicate_readVector (k : Nat) (s : State) :
    runInstrs (List.replicate k .readVector) s = .next (afterReadVector^[k] s) := by
  induction k generalizing s with
  | zero => rfl
  | succ k ih => rw [List.replicate_succ, runInstrs_cons (exec_readVector_eq s), ih, Function.iterate_succ_apply]

theorem afterReadVector_result {s : State} {src : Option VecSource} (h : highestPending s.cfg s.timer = src) :
    (afterReadVector s).result = some (.value (vecCode src)) := by
  rw [← h]; rfl

/-- A call of `read_vector()` leaves every source pending but the one it names. -/
theorem pending_afterReadVector (s : State) (x : VecSource) :
    x.Pending (afterReadVector s) ↔ x.Pending s ∧ highestPending s.cfg s.timer ≠ some x := by
  rw [VecSource.Pending, afterReadVector_cfg, afterReadVector_timer, VecSource.flag_acknowledge,
    VecSource.enabled_acknowledge, VecSource.Pending]
  tauto

/-- With one source pending, a call returns its code and the next call 0. -/
theorem readVector_twice_of_sole {s : State} {x : VecSource} (hx : x.Pending s)
    (hsole : ∀ y : VecSource, y.Pending s → y = x) :
    ∃ t u, exec .readVector s = .next t ∧ t.result = some (.value (vecCode (some x))) ∧
      exec .readVector t = .next u ∧ u.result = some (.value 0) := by
  have hfirst := highestPending_of_sole hx hsole
  have hnone (y : VecSource) : ¬ y.Pending (afterReadVector s) := by
    rw [pending_afterReadVector, hfirst]
    rintro ⟨hy, hne⟩
    exact hne (by rw [hsole y hy])
  exact ⟨_, _, exec_readVector_eq s, afterReadVector_result hfirst, exec_readVector_eq _,
    afterReadVector_result (highestPending_of_none_pending hnone)⟩

/-! ## The loop of calls -/

/-- Of the sources of the vector register, `t` differs from `s` only in flags of pending ones cleared. -/
structure State.VectorServiced (s t : State) : Prop where
  cfg : t.cfg = s.cfg
  enabled : ∀ x : VecSource, x.enabled t.timer = x.enabled s.timer
  flag_of_flag : ∀ x : VecSource, x.flag t.timer = true → x.flag s.timer = true
  flag_kept : ∀ x : VecSource, x.flag s.timer = true → ¬ x.Pending s → x.flag t.timer = true

namespace State.VectorServiced
variable {s t u : State} {x : VecSource}

theorem rfl : s.VectorServiced s := ⟨Eq.refl _, fun _ => Eq.refl _, fun _ => id, fun _ h _ => h⟩

/-- Where the flag is still set, a source is as pending as it was. -/
theorem pending_iff (h : s.VectorServiced t) : x.Pending t ↔ x.Pending s ∧ x.flag t.timer = true := by
  have hflag := h.flag_of_flag x
  rw [VecSource.Pending, VecSource.Pending, h.cfg, h.enabled]
  tauto

theorem trans (h : s.VectorServiced t) (g : t.VectorServiced u) : s.VectorServiced u where
  cfg := g.cfg.trans h.cfg
  enabled x := (g.enabled x).trans (h.enabled x)
  flag_of_flag x := h.flag_of_flag x ∘ g.flag_of_flag x
  flag_kept x hx hp := g.flag_kept x (h.flag_kept x hx hp) fun ht => hp (h.pending_iff.1 ht).1

/-- Once no source is pending, the flags still set are those that were set and not pending. -/
theorem flag_iff (h : s.VectorServiced t) (hnone : ¬ x.Pending t) :
    x.flag t.timer = true ↔ x.flag s.timer = true ∧ ¬ x.Pending s :=
  ⟨fun hx => ⟨h.flag_of_flag x hx, fun hp => hnone (h.pending_iff.2 ⟨hp, hx⟩)⟩, fun ⟨hx, hp⟩ => h.flag_kept x hx hp⟩

end State.VectorServiced

theorem vectorServiced_afterReadVector (s : State) : s.VectorServiced (afterReadVector s) where
  cfg := rfl
  enabled := VecSource.enabled_acknowledge _ _
  flag_of_flag x hx := ((VecSource.flag_acknowledge _ _ x).1 hx).1
  flag_kept x hx hp := (VecSource.flag_acknowledge _ _ x).2 ⟨hx, fun hsrc => hp (pending_of_highestPending hsrc)⟩

theorem vectorServiced_iterate (k : Nat) (s : State) : s.VectorServiced (afterReadVector^[k] s) := by
  induction k with
  | zero => exact .rfl
  | succ k ih =>
    rw [Function.iterate_succ_apply']
    exact ih.trans (vectorServiced_afterReadVector _)

/-- `k` calls service at least the first `k` places of the priority order: each call clears the first pending source, and
the calls before it left nothing pending in the places before its own. -/
theorem lt_rank_of_pending_iterate (k : Nat) (s : State) (x : VecSource) (h : x.Pending (afterReadVector^[k] s)) :
    k < x.rank s.cfg := by
  induction k generalizing x with
  | zero =>
    match x with
    | .overflow => exact Nat.succ_pos _
    | .channel n => exact Nat.pos_of_ne_zero fun h0 => ((VecSource.pending_channel_iff s n).1 h).1 (Fin.ext h0)
  | succ k ih =>
    rw [Function.iterate_succ_apply', pending_afterReadVector] at h
    obtain ⟨hx, hne⟩ := h
    obtain ⟨y, hy, hyp, hfirst⟩ | ⟨-, hnone⟩ := highestPending_cases (afterReadVector^[k] s)
    · have hlt := hfirst x hx fun heq => hne (by rw [hy, heq])
      rw [(vectorServiced_iterate k s).cfg] at hlt
      exact (Nat.succ_le_of_lt (ih y hyp)).trans_lt hlt
    · exact absurd hx (hnone x)

/-- `N_CH` calls leave no source pending. -/
theorem not_pending_iterate_nCh (s : State) (x : VecSource) : ¬ x.Pending (afterReadVector^[nCh s.cfg] s) := by
  intro h
  have hle := h.rank_le
  rw [(vectorServiced_iterate _ s).cfg] at hle
  exact absurd (lt_rank_of_pending_iterate _ s x h) hle.not_gt

end Sys2Proof.Machine
end

section
/-! The statements on `read_vector()`: one call, two calls, and the loop of `N_CH` calls. -/

namespace Sys2Proof.Machine

/-- Settles O45: one read of `IV`, and `readVector_twice_of_sole` for a channel and for the overflow. -/
theorem readVectorAcknowledgesOnce : Obligations.ReadVectorAcknowledgesOnce := by
  refine ⟨fun _ => rfl, fun s => ⟨⟨_, _, exec_rdIv s, rfl, exec_readVector_eq s⟩, fun n hn hsole hovf => ?channel,
    fun hnone hflag henable => ?overflow⟩⟩
  case channel =>
    refine readVector_twice_of_sole ((VecSource.pending_channel_iff s n).2 hn) fun y hy => ?_
    match y with
    | .channel m => rw [hsole m ((VecSource.pending_channel_iff s m).1 hy)]
    | .overflow => exact absurd ((VecSource.pending_overflow_iff s).1 hy) hovf
  case overflow =>
    refine readVector_twice_of_sole ((VecSource.pending_overflow_iff s).2 ⟨hflag, henable⟩) fun y hy => ?_
    match y with
    | .channel m => exact absurd ((VecSource.pending_channel_iff s m).1 hy) (hnone m)
    | .overflow => rfl

/-- Settles O59: after the calls nothing is pending (`not_pending_iterate_nCh`), and they cleared flags of pending sources
only (`vectorServiced_iterate`). -/
theorem vectorLoopServicesEverySource : Obligations.VectorLoopServicesEverySource := by
  intro s
  have hnone := not_pending_iterate_nCh s
  have hserviced := vectorServiced_iterate (nCh s.cfg) s
  refine ⟨_, runInstrs_replicate_readVector (nCh s.cfg) s, ?line, fun n => ?channel, ?overflow⟩
  case line =>
    rw [irqIv, ivVal, highestPending_of_none_pending hnone]; rfl
  case channel =>
    rw [← VecSource.pending_channel_iff]
    exact hserviced.flag_iff (hnone (.channel n))
  case overflow =>
    refine (hserviced.flag_iff (hnone .overflow)).trans (and_congr_right fun hflag => ?_)
    rw [VecSource.pending_overflow_iff, not_and, Bool.eq_false_iff]
    exact ⟨fun h => h hflag, fun h _ => h⟩

end Sys2Proof.Machine
end

section
/-! SUPPORT. The code the vector register reports tells the sources apart, so that a read's answer says which source it
acknowledged (R69, R203, R205); channel 0 and the arbiter (R206); a rejected word carried out (R215). -/

namespace Sys2Proof.Machine

/-! ## The codes of the sources, R69 -/

theorem vecCode_channel_toNat (n : Chan) : (vecCode (some (.channel n))).toNat = 2 * n.val :=
  Nat.mod_eq_of_lt (by have := n.isLt; omega)

/-- The code 0 says that no source is reported; only channel 0, which is never reported, would share it. -/
theorem vecCode_ne_zero {x : VecSource} (hx : x ≠ .channel 0) : vecCode (some x) ≠ 0 := by
  match x with
  | .overflow => decide
  | .channel n =>
    intro h
    have hn := (vecCode_channel_toNat n).symm.trans (congrArg BitVec.toNat h)
    exact hx (congrArg VecSource.channel (Fin.ext ((Nat.mul_eq_zero.1 hn).resolve_left two_ne_zero)))

theorem vecCode_channel_ne_overflow (n : Chan) : vecCode (some (.channel n)) ≠ vecCode (some .overflow) := by
  intro h
  have h14 := (vecCode_channel_toNat n).symm.trans (congrArg BitVec.toNat h)
  exact (Nat.mul_lt_mul_of_pos_left n.isLt two_pos).ne h14

/-- Two sources do not share a code. -/
theorem vecCode_some_inj {x y : VecSource} (h : vecCode (some x) = vecCode (some y)) : x = y := by
  match x, y with
  | .overflow, .overflow => rfl
  | .channel n, .overflow => exact absurd h (vecCode_channel_ne_overflow n)
  | .overflow, .channel m => exact absurd h.symm (vecCode_channel_ne_overflow m)
  | .channel n, .channel m =>
    have hnat := congrArg BitVec.toNat h
    rw [vecCode_channel_toNat, vecCode_channel_toNat] at hnat
    exact congrArg VecSource.channel (Fin.ext (Nat.eq_of_mul_eq_mul_left two_pos hnat))

/-- `RD IV` answers a source's code exactly when that source is the one the vector register names. -/
theorem rdIv_reports_iff (s : State) {x : VecSource} (hx : x ≠ .channel 0) :
    (rdIv s).rdata = some (vecCode (some x)) ↔ highestPending s.cfg s.timer = some x := by
  rw [rdIv, answer_rdata, ivVal, Option.some_inj]
  cases highestPending s.cfg s.timer with
  | none => exact iff_of_false (vecCode_ne_zero hx).symm nofun
  | some y => exact ⟨fun h => congrArg some (vecCode_some_inj h), fun h => congrArg vecCode h⟩

/-! ## The request lines, R201, R202 -/

theorem irqCcr0_iff (t : Timer) : irqCcr0 t = true ↔ (t.chan 0).ccifg = true ∧ (t.chan 0).ccie = true :=
  Bool.and_eq_true_iff

theorem VecSource.Pending.ne_channel_zero {s : State} {x : VecSource} (h : x.Pending s) : x ≠ .channel 0 := by
  rintro rfl
  obtain ⟨⟨h0, -⟩, -⟩ := h
  exact h0 rfl

theorem exists_pending_iff (s : State) :
    (∃ x : VecSource, x.Pending s) ↔ (∃ n, SharedPending s n) ∨ (s.timer.taifg = true ∧ s.timer.taie = true) := by
  rw [← VecSource.pending_overflow_iff]
  constructor
  · rintro ⟨x, hx⟩
    match x with
    | .channel n => exact .inl ⟨n, (VecSource.pending_channel_iff s n).1 hx⟩
    | .overflow => exact .inr hx
  · rintro (⟨n, hn⟩ | hovf)
    · exact ⟨_, (VecSource.pending_channel_iff s n).2 hn⟩
    · exact ⟨_, hovf⟩

/-- The shared request line is high exactly while some source is pending on it. -/
theorem irqIv_iff (s : State) : irqIv s.cfg s.timer = true ↔ ∃ x : VecSource, x.Pending s := by
  rw [irqIv, bne_iff_ne, ivVal]
  obtain ⟨x, hsrc, hx, -⟩ | ⟨hsrc, hnone⟩ := highestPending_cases s
  · rw [hsrc]
    exact iff_of_true (vecCode_ne_zero hx.ne_channel_zero) ⟨x, hx⟩
  · rw [hsrc]
    exact iff_of_false (fun h => h rfl) fun ⟨x, hx⟩ => hnone x hx

/-! ## Sources under `RD IV` -/

/-- A read of the vector register leaves every source pending but the one it names. -/
theorem pending_rdIv (s : State) (x : VecSource) :
    x.Pending (rdIv s) ↔ x.Pending s ∧ highestPending s.cfg s.timer ≠ some x :=
  pending_afterReadVector s x

theorem sharedPending_rdIv (s : State) (n : Chan) :
    SharedPending (rdIv s) n ↔ SharedPending s n ∧ (rdIv s).rdata ≠ some (vecCode (some (.channel n))) := by
  rw [← VecSource.pending_channel_iff, ← VecSource.pending_channel_iff, pending_rdIv]
  exact and_congr_right fun hn => (rdIv_reports_iff s hn.ne_channel_zero).not.symm

theorem taifg_rdIv (s : State) :
    (rdIv s).timer.taifg = true ↔ s.timer.taifg = true ∧ (rdIv s).rdata ≠ some (vecCode (some .overflow)) := by
  rw [ne_eq, rdIv_reports_iff s (x := .overflow) nofun]
  exact VecSource.flag_acknowledge (highestPending s.cfg s.timer) s.timer .overflow

/-! ## Channel 0 and the arbiter, R206 -/

/-- The arbiter does not look at channel 0. -/
theorem highestPending_setChan_zero (cfg : Cfg) (t : Timer) (c : Channel) :
    highestPending cfg (t.setChan 0 c) = highestPending cfg t := by
  have hfind : vectorChans.find? (fun n => wired cfg n && channelPending ((t.setChan 0 c).chan n)) =
      vectorChans.find? (fun n => wired cfg n && channelPending (t.chan n)) := by
    have hnz : ∀ n ∈ vectorChans, n ≠ 0 := by decide
    exact List.find?_congr fun n hn => by rw [Timer.setChan_chan_ne _ _ _ _ (hnz n hn)]
  have hovf : overflowPending (t.setChan 0 c) = overflowPending t := rfl
  rw [highestPending, highestPending, hfind, hovf]

theorem ivVal_setChan_zero (cfg : Cfg) (t : Timer) (c : Channel) : ivVal cfg (t.setChan 0 c) = ivVal cfg t :=
  congrArg vecCode (highestPending_setChan_zero cfg t c)

/-- The acknowledge of a vector access is never channel 0's. -/
theorem acknowledge_highestPending_chan_zero (s : State) :
    (acknowledge (highestPending s.cfg s.timer) s.timer).chan 0 = s.timer.chan 0 := by
  rw [acknowledge_chan, if_neg fun h => (pending_of_highestPending h).ne_channel_zero rfl]

/-- With one channel wired only the overflow can drive the shared line. -/
theorem not_sharedPending_of_lastCh_zero {s : State} (h : s.cfg.lastCh = 0) (n : Chan) : ¬ SharedPending s n := by
  rintro ⟨h0, hw, -⟩
  rw [wired_iff, h] at hw
  exact h0 (Fin.le_zero_iff.1 hw)

/-! ## Rejected words, R215 -/

theorem applyWord_of_rejected {w : StimWord} {e : Reject} (h : decode w = .error e) (s : State) :
    applyWord w s = refuse (rejectCause e) s := by
  rw [applyWord, (decode_eq_error_iff w e).1 h]

end Sys2Proof.Machine
end

section
/-! The statements on the exceptions: the request lines, channel 0, `ACK0`, and refused words. -/

namespace Sys2Proof.Machine

/-- Settles O57: the arbiter skips channel 0 (`highestPending_setChan_zero`), so no acknowledge names it; with one channel
no other can be pending. -/
theorem channelZeroStaysOffTheVector : Obligations.ChannelZeroStaysOffTheVector := by
  intro s c
  have hvalue := ivVal_setChan_zero s.cfg s.timer c
  have hkept := acknowledge_highestPending_chan_zero s
  refine ⟨hvalue, congrArg (· != 0) hvalue, ⟨_, exec_rdIv s, hkept⟩, fun d => ⟨_, exec_wrIv d s, hkept⟩,
    fun hlast => ?_⟩
  have hnone := not_sharedPending_of_lastCh_zero hlast
  refine ⟨?line, ?value⟩
  case line =>
    rw [irqIv_iff, exists_pending_iff]
    exact or_iff_right fun ⟨n, hn⟩ => hnone n hn
  case value =>
    rw [ivVal, highestPending_none s hnone]
    split
    · exact .inr rfl
    · exact .inl rfl

/-- Settles O58: the lines by `irqCcr0_iff` and `irqIv_iff`; the read names a pending source and clears the flag of the
one whose code it answers, no other (`sharedPending_rdIv`, `taifg_rdIv`). -/
theorem requestLinesFollowPendingSources : Obligations.RequestLinesFollowPendingSources := by
  intro s
  refine ⟨irqCcr0_iff s.timer, (irqIv_iff s).trans (exists_pending_iff s), rdIv s, exec_rdIv s, fun hline => ?reported,
    fun n hcode hn => ((sharedPending_rdIv s n).1 hn).2 hcode, fun hcode => ?overflowCleared,
    fun n hn hcode => (sharedPending_rdIv s n).2 ⟨hn, hcode⟩, fun n hn => ((sharedPending_rdIv s n).1 hn).1,
    fun hflag hcode => (taifg_rdIv s).2 ⟨hflag, hcode⟩, fun hflag => ((taifg_rdIv s).1 hflag).1,
    VecSource.enabled_acknowledge _ s.timer .overflow, fun n => VecSource.enabled_acknowledge _ s.timer (.channel n)⟩
  case reported =>
    obtain ⟨x, hsrc, hx, -⟩ | ⟨-, hnone⟩ := highestPending_cases s
    · have hcode := (rdIv_reports_iff s hx.ne_channel_zero).2 hsrc
      match x with
      | .channel n => exact .inl ⟨n, (VecSource.pending_channel_iff s n).1 hx, hcode⟩
      | .overflow =>
        obtain ⟨hflag, henable⟩ := (VecSource.pending_overflow_iff s).1 hx
        exact .inr ⟨hflag, henable, hcode⟩
    · obtain ⟨x, hx⟩ := (irqIv_iff s).1 hline
      exact absurd hx (hnone x)
  case overflowCleared =>
    rw [← Bool.not_eq_true, taifg_rdIv]
    exact fun ⟨_, hne⟩ => hne hcode

/-- Settles O7: the word's refusal (`applyWord_of_rejected`), whose cause `rejectCause` gives; past the end nothing is
fetched. -/
theorem stepRefusesRejectedWordAndEndsAtListEnd : Obligations.StepRefusesRejectedWordAndEndsAtListEnd := by
  refine ⟨fun s w e hw hd => ⟨rejectCause e, ?refused, congrArg rejectCause, congrArg rejectCause,
      fun _ => congrArg rejectCause, fun _ => congrArg rejectCause⟩,
    fun s hend => step_of_no_fetch s (List.getElem?_eq_none hend)⟩
  case refused =>
    rw [step_of_fetch s w hw, applyWord_of_rejected hd]; rfl

/-- Settles O32: `clearCcifg` at channel 0, whose request line is its flag and its enable. -/
theorem ack0ClearsChannelZeroFlag : Obligations.Ack0ClearsChannelZeroFlag := by
  intro s
  have hzero : (clearCcifg 0 s.timer).chan 0 = { s.timer.chan 0 with ccifg := false } := Timer.setChan_chan_same _ _ _
  refine ⟨clearCcifg 0 s.timer, exec_ack0 s, hzero, fun n hn => Timer.setChan_chan_ne _ _ _ _ hn, rfl, ?_⟩
  rw [irqCcr0, hzero]; rfl

end Sys2Proof.Machine
end

section
/-! The statement on the `RESET` event, R230, R231. -/

namespace Sys2Proof.Machine

theorem resetTimer_chan_of_wired {cfg : Cfg} {n : Chan} (hn : wired cfg n = true) (t : Timer) :
    (resetTimer cfg t).chan n = resetChannel (t.chan n) := by
  rw [resetTimer_chan, if_pos hn]

theorem resetTimer_chan_of_unwired {cfg : Cfg} {n : Chan} (hn : wired cfg n = false) (t : Timer) :
    (resetTimer cfg t).chan n = t.chan n := by
  rw [resetTimer_chan, if_neg (Bool.eq_false_iff.1 hn)]

/-- Only wired channels feed the request lines, and `RESET` clears the flag of each of them. -/
theorem ccifg_resetTimer_of_wired {cfg : Cfg} {n : Chan} (hn : wired cfg n = true) (t : Timer) :
    ((resetTimer cfg t).chan n).ccifg = false := by
  rw [resetTimer_chan_of_wired hn]; rfl

/-- An unwired place keeps a set flag through `RESET`, but is no source of the shared line. -/
theorem not_pending_evReset (s : State) (x : VecSource) : ¬ x.Pending (evReset s) := by
  match x with
  | .channel n =>
    rw [VecSource.pending_channel_iff]
    rintro ⟨-, hwired, hflag, -⟩
    exact Bool.false_ne_true ((ccifg_resetTimer_of_wired hwired s.timer).symm.trans hflag)
  | .overflow =>
    rw [VecSource.pending_overflow_iff]
    exact fun ⟨hflag, _⟩ => Bool.false_ne_true hflag

/-- Settles O20: the channels by `resetTimer_chan`; the lines are low because no flag of a wired channel and no overflow
flag is left (`ccifg_resetTimer_of_wired`, `not_pending_evReset`). -/
theorem resetEventClearsAllButInputs : Obligations.ResetEventClearsAllButInputs := by
  intro s
  refine ⟨resetTimer s.cfg s.timer, exec_reset s, rfl, fun n hn => resetTimer_chan_of_wired hn s.timer,
    fun n hn => resetTimer_chan_of_unwired hn s.timer, ?channelZeroLine, ?sharedLine⟩
  case channelZeroLine =>
    rw [← Bool.not_eq_true, irqCcr0_iff, ccifg_resetTimer_of_wired (wired_zero s.cfg)]
    exact fun ⟨hflag, _⟩ => Bool.false_ne_true hflag
  case sharedLine =>
    rw [← Bool.not_eq_true]
    exact fun hline =>
      have ⟨x, hx⟩ := (irqIv_iff (evReset s)).1 hline
      not_pending_evReset s x hx

end Sys2Proof.Machine
end
